-- ==== Sys2Proof/Word.lean ====
section
/-! DEFINITION. The widths of the block's data (spec/00_scope.md R6, R9). -/

namespace Sys2Proof

/-- A byte: 8 bits (R9). -/
abbrev Byte := BitVec 8

/-- A length, capacity, bit count or CRC accumulator: `LENW = ACCW = 16` (R6). -/
abbrev Half := BitVec 16

/-- A register transaction's value or a command word: `REGW = 32` (R6, R80). -/
abbrev Word := BitVec 32

end Sys2Proof
end

