-- ==== Sys2Proof/Syntax.lean ====
section
/-! DEFINITION. The operations of the opcode table, one constructor per row (spec/30_encoding.md R85). -/

namespace Sys2Proof

/-- The 21 command words and the port operation `ABORT`. Every operand but `imm8` is a register or a
buffer the command's rule names (R84). -/
inductive Instr where
  /-- `CRCA.INIT`, R101 -/
  | crcaInit
  /-- `CRCA.UPD imm8`, R102 -/
  | crcaUpd (imm8 : Byte)
  /-- `CRCA.CALC`, R104 -/
  | crcaCalc
  /-- `CRCA.APPEND`, R105 -/
  | crcaAppend
  /-- `CRCB.INIT`, R121 -/
  | crcbInit
  /-- `CRCB.UPD imm8`, R122 -/
  | crcbUpd (imm8 : Byte)
  /-- `CRCB.CALC`, R123 -/
  | crcbCalc
  /-- `CRCB.APPEND`, R124 -/
  | crcbAppend
  /-- `CASC.ENC`, R140 -/
  | cascEnc
  /-- `ATS.LOCHB`, R150 -/
  | atsLochb
  /-- `XCV.BYTES`, R174 -/
  | xcvBytes
  /-- `XCV.BYTES.T`, R175 -/
  | xcvBytesT
  /-- `XCV.BITS`, R176 -/
  | xcvBits
  /-- `XCV.BITS.T`, R177 -/
  | xcvBitsT
  /-- `TGT.INIT`, R191 -/
  | tgtInit
  /-- `TGT.SENDB`, R192 -/
  | tgtSendb
  /-- `TGT.RECVB`, R193 -/
  | tgtRecvb
  /-- `TGT.SENDBITS`, R194 -/
  | tgtSendbits
  /-- `TGT.RECVBITS`, R195 -/
  | tgtRecvbits
  /-- `LNK.OPEN`, R211 -/
  | lnkOpen
  /-- `LNK.CLOSE`, R212 -/
  | lnkClose
  /-- `ABORT`, R214: a write to register `ABORT` with bit 0 set (format P, R83) -/
  | abort
  deriving DecidableEq, Repr

end Sys2Proof
end

