-- ==== Sys2Proof/Decode.lean ====
section
/-! DEFINITION. Decoding and encoding of command words and of the value written to `ABORT`
(spec/30_encoding.md R80 to R88). -/

namespace Sys2Proof

/-- The register a value is written to when it stands for an operation: `CMD` (formats N and I) or `ABORT`
(format P, R83: not a command word). -/
inductive Port where
  | cmd
  | abort
  deriving DecidableEq, Repr

/-- Why a value selects no operation (R86; the last for a write to `ABORT` with bit 0 clear, R26). -/
inductive Reject where
  /-- `w[7:0]` is no opcode of the map -/
  | unlistedOpcode
  /-- a format N word with `w[31:8] != 0` -/
  | formatNBitsSet
  /-- a format I word with `w[31:16] != 0` -/
  | formatIBitsSet
  /-- a value written to `ABORT` with bit 0 clear -/
  | abortBitClear
  deriving DecidableEq, Repr

/-- What decoding answers. -/
inductive Decoded where
  | instr (i : Instr)
  | rejected (r : Reject)
  deriving DecidableEq, Repr

/-- One row of the opcode map (R85). -/
structure Row where
  mnemonic : String
  pattern : Word
  mask : Word
  build : Byte → Instr

/-- A row of format N (R81): all 32 bits fixed. -/
def formatN (mnemonic : String) (op : Byte) (i : Instr) : Row :=
  ⟨mnemonic, op.setWidth 32, 0xFFFFFFFF, fun _ => i⟩

/-- A row of format I (R82): bits 15:8 are the immediate. -/
def formatI (mnemonic : String) (op : Byte) (build : Byte → Instr) : Row :=
  ⟨mnemonic, op.setWidth 32, 0xFFFF00FF, build⟩

/-- The opcode map of R85, in its order, but for `ABORT`, which is no command word. -/
def opcodeMap : List Row :=
  [ formatN "CRCA.INIT" 0x10 .crcaInit,
    formatI "CRCA.UPD" 0x11 .crcaUpd,
    formatN "CRCA.CALC" 0x12 .crcaCalc,
    formatN "CRCA.APPEND" 0x13 .crcaAppend,
    formatN "CRCB.INIT" 0x20 .crcbInit,
    formatI "CRCB.UPD" 0x21 .crcbUpd,
    formatN "CRCB.CALC" 0x22 .crcbCalc,
    formatN "CRCB.APPEND" 0x23 .crcbAppend,
    formatN "CASC.ENC" 0x30 .cascEnc,
    formatN "ATS.LOCHB" 0x31 .atsLochb,
    formatN "XCV.BYTES" 0x40 .xcvBytes,
    formatN "XCV.BYTES.T" 0x41 .xcvBytesT,
    formatN "XCV.BITS" 0x42 .xcvBits,
    formatN "XCV.BITS.T" 0x43 .xcvBitsT,
    formatN "TGT.INIT" 0x50 .tgtInit,
    formatN "TGT.SENDB" 0x51 .tgtSendb,
    formatN "TGT.RECVB" 0x52 .tgtRecvb,
    formatN "TGT.SENDBITS" 0x53 .tgtSendbits,
    formatN "TGT.RECVBITS" 0x54 .tgtRecvbits,
    formatN "LNK.OPEN" 0x60 .lnkOpen,
    formatN "LNK.CLOSE" 0x61 .lnkClose ]

/-- A word selects a row when `w and mask = match` (R80). -/
def Row.selects (r : Row) (w : Word) : Bool := w &&& r.mask == r.pattern

/-- The immediate of format I: `w[15:8]`, as it stands (R84). -/
def imm8Of (w : Word) : Byte := w.extractLsb' 8 8

/-- The opcode field `w[7:0]` (R80). -/
def opOf (w : Word) : Byte := w.extractLsb' 0 8

/-- The name of the reason why a word selects no row (R86). -/
def rejectionOf (w : Word) : Reject :=
  match opcodeMap.find? (fun r => r.pattern == (opOf w).setWidth 32) with
  | none => .unlistedOpcode
  | some r => if r.mask == 0xFFFFFFFF then .formatNBitsSet else .formatIBitsSet

/-- Decoding of a word written to `CMD`: total, by look-up in the map (R80). -/
def decodeCmd (w : Word) : Decoded :=
  match opcodeMap.find? (fun r => r.selects w) with
  | some r => .instr (r.build (imm8Of w))
  | none => .rejected (rejectionOf w)

/-- Decoding of a value written to `ABORT`: bit 0 requests an abort, bits 31:1 are ignored (R83). -/
def decodeAbort (v : Word) : Decoded :=
  if v.getLsbD 0 then .instr .abort else .rejected .abortBitClear

/-- Decoding of a value written to either register that issues operations. -/
def decode : Port → Word → Decoded
  | .cmd, w => decodeCmd w
  | .abort, w => decodeAbort w

/-- The register an operation is issued through (R80, R83). -/
def portOf : Instr → Port
  | .abort => .abort
  | _ => .cmd

/-- The format I word of an opcode and an immediate (R82). -/
def wordI (op imm8 : Byte) : Word := (imm8.setWidth 32 <<< 8) ||| op.setWidth 32

/-- The word that issues an operation, written to `portOf i` (R81 to R85). -/
def encode : Instr → Word
  | .crcaInit => 0x10
  | .crcaUpd b => wordI 0x11 b
  | .crcaCalc => 0x12
  | .crcaAppend => 0x13
  | .crcbInit => 0x20
  | .crcbUpd b => wordI 0x21 b
  | .crcbCalc => 0x22
  | .crcbAppend => 0x23
  | .cascEnc => 0x30
  | .atsLochb => 0x31
  | .xcvBytes => 0x40
  | .xcvBytesT => 0x41
  | .xcvBits => 0x42
  | .xcvBitsT => 0x43
  | .tgtInit => 0x50
  | .tgtSendb => 0x51
  | .tgtRecvb => 0x52
  | .tgtSendbits => 0x53
  | .tgtRecvbits => 0x54
  | .lnkOpen => 0x60
  | .lnkClose => 0x61
  | .abort => 1

/-- The operation a decoding selects, if any. -/
def Decoded.instr? : Decoded → Option Instr
  | .instr i => some i
  | .rejected _ => none

/-- The port a word of the opcode table belongs to, and the operation it selects there. The table lists two
kinds of rows in one numbering (R83): every command word has 32 bits (R80), so a row of fewer bits can only be
`ABORT`'s, whose row fixes bit 0 alone; a word of 32 bits that is no command word is read as `ABORT`'s (log 13). -/
def tableEntry (nbits w : Nat) : Option (Port × Instr) :=
  let v : Word := BitVec.ofNat 32 w
  let cmd := (decode .cmd v).instr?.map (fun i => (Port.cmd, i))
  let abort := (decode .abort v).instr?.map (fun i => (Port.abort, i))
  if nbits < 32 then abort.or cmd else cmd.or abort

/-- The instruction the decoder reads from an opcode-table word. -/
def decodeTableWord (nbits w : Nat) : Option Instr := (tableEntry nbits w).map (·.2)

end Sys2Proof
end

