-- ==== Sys2Proof/Config.lean ====
section
/-! DEFINITION. The implementation parameters of spec/00_scope.md R6, and the free values. -/

namespace Sys2Proof.Config

/-- `FRAME_CAP`: bytes in each of the four buffers (R6, R43). -/
def frameCap : Nat := 512

/-- The seed of CRCA (R6, R101). -/
def seedA : Half := 0x6363

/-- The seed of CRCB (R6, R121). -/
def seedB : Half := 0xFFFF

/-- `XOROUT_A`: the value XORed onto the accumulator at output. None, the source has no such step (R6, R106). -/
def xorOutA : Half := 0x0000

/-- `XOROUT_B`: none either; the doubt about it is R126 and log 14. -/
def xorOutB : Half := 0x0000

/-- The cascade tag (R6, R143). -/
def cascadeTag : Byte := 0x88

/-- `TIMEOUT_DEFAULT`, read as a signed number: the one legal negative value of `TIMEOUT` (R6, R38). -/
def timeoutDefault : Int := -1

/-- FREE VALUE (log 4; spec/93_implementation_defined.md U6, "any value"): the byte at an address of the
byte-address view that nothing has written since the given reset. Nothing constrains it. -/
opaque unwrittenByte (resets address : Nat) : Byte

end Sys2Proof.Config
end

