-- ==== Sys2Proof/Machine/Ports.lean ====
section
/-! DEFINITION. What crosses the block's interfaces: error kinds (spec/60_exceptions.md R230), the link port's
records (spec/44_transceive_initiator.md R160, R161), the host port's transactions (spec/20_memory.md R61 to R63)
and the moves of the agents (spec/00_scope.md R7, R8). -/

namespace Sys2Proof.Machine

/-- The error taxonomy, in the source's order (R230). -/
inductive ErrKind where
  | success
  | ioError
  | invalidArgument
  | deviceNotSupported
  | noSuchDevice
  | overflow
  | timeout
  | aborted
  | notImplemented
  | targetReleased
  | rfTransmissionError
  | authenticationFailed
  | softwareError
  | chipError
  | deviceClosed
  deriving DecidableEq, Repr

/-- The code of a kind: its position in the list (R230). -/
def ErrKind.code : ErrKind → BitVec 4
  | .success => 0
  | .ioError => 1
  | .invalidArgument => 2
  | .deviceNotSupported => 3
  | .noSuchDevice => 4
  | .overflow => 5
  | .timeout => 6
  | .aborted => 7
  | .notImplemented => 8
  | .targetReleased => 9
  | .rfTransmissionError => 10
  | .authenticationFailed => 11
  | .softwareError => 12
  | .chipError => 13
  | .deviceClosed => 14

/-- What the link can report: the taxonomy without `DeviceClosed`, which "the link never delivers" (R161). -/
inductive LinkCode where
  | success
  | ioError
  | invalidArgument
  | deviceNotSupported
  | noSuchDevice
  | overflow
  | timeout
  | aborted
  | notImplemented
  | targetReleased
  | rfTransmissionError
  | authenticationFailed
  | softwareError
  | chipError
  deriving DecidableEq, Repr

/-- The link's code as a kind of the taxonomy, unchanged (R162). -/
def LinkCode.kind : LinkCode → ErrKind
  | .success => .success
  | .ioError => .ioError
  | .invalidArgument => .invalidArgument
  | .deviceNotSupported => .deviceNotSupported
  | .noSuchDevice => .noSuchDevice
  | .overflow => .overflow
  | .timeout => .timeout
  | .aborted => .aborted
  | .notImplemented => .notImplemented
  | .targetReleased => .targetReleased
  | .rfTransmissionError => .rfTransmissionError
  | .authenticationFailed => .authenticationFailed
  | .softwareError => .softwareError
  | .chipError => .chipError

/-- The `op` field of a request: the opcode of the issuing command, or the marker `ABORT` (R160). -/
inductive ReqOp where
  | command (op : Byte)
  | abort
  deriving DecidableEq, Repr

/-- A request record; a field a command does not use is empty or 0 (R160). -/
structure LinkReq where
  op : ReqOp
  data : List Byte := []
  par : List Byte := []
  nbits : Nat := 0
  rxcap : Nat := 0
  rxcapbits : Nat := 0
  timeout : Int := 0
  cycles : Word := 0
  deriving DecidableEq, Repr

/-- A response record (R161). Its content is free: a model draws it without constraint. -/
structure LinkRsp where
  code : LinkCode
  data : List Byte := []
  par : List Byte := []
  nbits : Nat := 0
  cycles : Word := 0
  deriving DecidableEq, Repr

/-- `ceil8(n)`, the bytes that hold `n` bits (spec/00_scope.md R9). -/
def ceil8 (n : Nat) : Nat := (n + 7) / 8

/-- The three shapes of a response: what the pending command receives (R161). -/
inductive RspShape where
  | bytes
  | bits
  | sendOnly
  deriving DecidableEq, Repr

/-- A response has the shape the link port's typing fixes (R161). -/
def LinkRsp.hasShape (rsp : LinkRsp) : RspShape → Bool
  | .bytes => rsp.par.isEmpty && rsp.nbits == 8 * rsp.data.length
  | .bits => rsp.data.length == ceil8 rsp.nbits && rsp.par.length == ceil8 rsp.nbits
  | .sendOnly => rsp.data.isEmpty && rsp.par.isEmpty && rsp.nbits == 0

/-- The nine link commands, the ones that can go `BUSY` (spec/30_encoding.md R85). -/
inductive LinkOp where
  | xcvBytes
  | xcvBytesT
  | xcvBits
  | xcvBitsT
  | tgtInit
  | tgtSendb
  | tgtRecvb
  | tgtSendbits
  | tgtRecvbits
  deriving DecidableEq, Repr

/-- The opcode of a link command (R85), which `PEND` holds while it is pending (R44). -/
def LinkOp.opcode : LinkOp → Byte
  | .xcvBytes => 0x40
  | .xcvBytesT => 0x41
  | .xcvBits => 0x42
  | .xcvBitsT => 0x43
  | .tgtInit => 0x50
  | .tgtSendb => 0x51
  | .tgtRecvb => 0x52
  | .tgtSendbits => 0x53
  | .tgtRecvbits => 0x54

/-- The link command of an opcode. -/
def LinkOp.ofOpcode (op : Byte) : Option LinkOp :=
  [.xcvBytes, .xcvBytesT, .xcvBits, .xcvBitsT, .tgtInit, .tgtSendb, .tgtRecvb, .tgtSendbits,
    .tgtRecvbits].find? (fun k => k.opcode == op)

/-- What a link command receives (R166's table). -/
def LinkOp.shape : LinkOp → RspShape
  | .xcvBytes => .bytes
  | .xcvBytesT => .bytes
  | .xcvBits => .bits
  | .xcvBitsT => .bits
  | .tgtInit => .bytes
  | .tgtSendb => .sendOnly
  | .tgtRecvb => .bytes
  | .tgtSendbits => .sendOnly
  | .tgtRecvbits => .bits

/-- The four buffers (spec/10_state.md R43). -/
inductive Buf where
  | din
  | pin
  | dout
  | pout
  deriving DecidableEq, Repr

/-- The buffer of a 2-bit number (R43, R60). -/
def Buf.ofNumber (b : BitVec 2) : Buf :=
  if b = 0 then .din else if b = 1 then .pin else if b = 2 then .dout else .pout

/-- The base of a buffer in the byte-address view (R43, R64). -/
def Buf.base : Buf → Nat
  | .din => 0x200
  | .pin => 0x400
  | .dout => 0x600
  | .pout => 0x800

/-- The host may write `DIN` and `PIN`; `DOUT` and `POUT` are read-only to it (R43). -/
def Buf.hostWritable : Buf → Bool
  | .din => true
  | .pin => true
  | .dout => false
  | .pout => false

/-- The 18 registers (R23 to R40). -/
inductive Reg where
  | cmd
  | status
  | err
  | abort
  | acca
  | accb
  | dinlen
  | pinlen
  | doutlen
  | poutlen
  | txbits
  | rxbits
  | rxcap
  | rxpcap
  | rxcapbits
  | timeout
  | cycles
  | hboff
  deriving DecidableEq, Repr

/-- The registers in index order. -/
def Reg.byIndex : List Reg :=
  [.cmd, .status, .err, .abort, .acca, .accb, .dinlen, .pinlen, .doutlen, .poutlen, .txbits, .rxbits, .rxcap,
    .rxpcap, .rxcapbits, .timeout, .cycles, .hboff]

/-- The register of a 7-bit index; indices 18 to 127 are reserved (R41). -/
def Reg.ofIndex (r : BitVec 7) : Option Reg := Reg.byIndex[r.toNat]?

/-- The registers with access RW (R29 to R39's table). -/
def Reg.isRW : Reg → Bool
  | .dinlen => true
  | .pinlen => true
  | .txbits => true
  | .rxcap => true
  | .rxpcap => true
  | .rxcapbits => true
  | .timeout => true
  | .cycles => true
  | _ => false

/-- A transaction of the host port (spec/20_memory.md R61 to R63). The port is typed: an access it cannot
express is no value of this type (R65). -/
inductive HostTxn where
  | regRead (r : BitVec 7)
  | regWrite (r : BitVec 7) (v : Word)
  | bufRead (b : BitVec 2) (i : BitVec 9)
  | bufWrite (b : BitVec 2) (i : BitVec 9) (v : Byte)
  deriving DecidableEq, Repr

/-- The value a read transaction returns (R61, R63). -/
inductive HostReply where
  | word (v : Word)
  | byte (v : Byte)
  deriving DecidableEq, Repr

/-- One move of an agent (spec/00_scope.md R7, R8; log 1). -/
inductive Event where
  /-- a host transaction; `openCode` is what the link returns if the transaction makes an open request, the free
  input of R211, and is looked at by nothing else (log 3) -/
  | host (t : HostTxn) (openCode : LinkCode)
  /-- the abort requester's `RegWrite(ABORT, v)` (R214) -/
  | abortWrite (v : Word)
  /-- the link's response (R165) -/
  | link (rsp : LinkRsp)
  /-- the environment's `Reset` (R260) -/
  | reset
  deriving DecidableEq, Repr

end Sys2Proof.Machine
end

