-- ==== Sys2Proof/Machine/State.lean ====
section
/-! DEFINITION. The state of the block (spec/10_state.md R20 to R47), the model's own fields, the reasons a step
can stop, and the state after reset. -/

namespace Sys2Proof.Machine

/-- The bytes of the four buffers that something has written since the last reset, by their address in the
byte-address view (spec/20_memory.md R64), addresses strictly rising (`Memory.wf`). An address not listed holds no
written byte; what reading it gives is `State.byteOf` in Machine/Ops.lean (log 4). -/
abbrev Memory := List Host.Cell

/-- The whole state. Fields down to `mem` are the spec's (R20); `CMD` and `ABORT` hold no state (R260). The last
five are the model's own (log 1, 3, 5, 7). -/
structure State where
  /-- `STATUS`: bit 0 `BUSY`, bit 1 `OPEN`, bit 2 `HBVALID`, bit 3 `ABTP` (R24) -/
  status : BitVec 4
  /-- `ERR` (R25) -/
  err : BitVec 4
  /-- `ACCA` (R27) -/
  acca : Half
  /-- `ACCB` (R28) -/
  accb : Half
  /-- `DINLEN` (R29) -/
  dinlen : Half
  /-- `PINLEN` (R30) -/
  pinlen : Half
  /-- `DOUTLEN` (R31) -/
  doutlen : Half
  /-- `POUTLEN` (R32) -/
  poutlen : Half
  /-- `TXBITS` (R33) -/
  txbits : Half
  /-- `RXBITS` (R34) -/
  rxbits : Half
  /-- `RXCAP` (R35) -/
  rxcap : Half
  /-- `RXPCAP` (R36) -/
  rxpcap : Half
  /-- `RXCAPBITS` (R37) -/
  rxcapbits : Half
  /-- `TIMEOUT` (R38) -/
  timeout : Word
  /-- `CYCLES` (R39) -/
  cycles : Word
  /-- `HBOFF` (R40) -/
  hboff : Half
  /-- `PEND`, hidden: the opcode of the pending link command (R44) -/
  pend : Byte
  /-- the written bytes of `DIN`, `PIN`, `DOUT`, `POUT` (R43) -/
  mem : Memory
  /-- model's own: the code the link returns to an open request made in the transaction in progress (R211, log 3) -/
  openCode : LinkCode
  /-- model's own: the requests handed to the link, oldest first (R160, log 7) -/
  toLink : List LinkReq
  /-- model's own: the values read transactions returned, oldest first (R61, R63, log 7) -/
  toHost : List HostReply
  /-- model's own: the moves of the agents still to come, oldest first (log 1) -/
  events : List Event
  /-- model's own: how many resets happened, which selects the free values of unwritten bytes (log 5) -/
  resets : Nat
  deriving DecidableEq, Repr

/-- Why a run faults. Both stand for states that no run reaches: the invariant `State.Inv` of Safety.lean
excludes them. -/
inductive Fault where
  /-- Raised by the completion step when `BUSY = 1` and `PEND` holds no opcode of a link command: the spec gives no
  completion rule for it (R165). Safe: the model stops (log 11). -/
  | noCompletionRule
  /-- Raised by a receive procedure that would write a byte at an index above 511: no such byte exists (R43; R170:
  the capacity checks exclude it). Safe: the model stops (log 12). -/
  | outsideBuffer
  deriving DecidableEq, Repr

/-- Why a step has no meaning. -/
inductive Refusal where
  /-- Raised by no arm of this model: an instruction whose meaning is not written yet. Safe. -/
  | notModelled (mnemonic : String)
  /-- Raised by any write but the one to `ABORT` while `BUSY = 1`: "What the block does on a forbidden write is not
  defined by this spec: a model refuses the transaction" (R266, U2, D36). Safe (log 8). -/
  | writeWhileBusy
  /-- Raised by a response whose shape is not the pending command's: the link port's typing cannot express it
  (R161). Safe (log 9). -/
  | illShapedResponse
  deriving DecidableEq, Repr

/-- The outcome of a step of this machine. -/
abbrev Outcome := Host.Outcome State Fault Refusal

/-- The machine right after reset (R47, R260). `pend` is unspecified there (DESIGN CHOICE 0, log 6); the model's
own fields are empty, and `openCode` and `resets` hold values no statement rests on (log 3, log 5). -/
def State.reset : State where
  status := 0
  err := 0
  acca := 0x6363
  accb := 0xFFFF
  dinlen := 0
  pinlen := 0
  doutlen := 0
  poutlen := 0
  txbits := 0
  rxbits := 0
  rxcap := 0
  rxpcap := 0
  rxcapbits := 0
  timeout := 0
  cycles := 0
  hboff := 0
  pend := 0
  mem := []
  openCode := .success
  toLink := []
  toHost := []
  events := []
  resets := 0

end Sys2Proof.Machine
end

