-- ==== Sys2Proof/Machine/Flags.lean ====
section
/-! DEFINITION. The fields of `STATUS` (spec/10_state.md R24, R45): the block's only flags. -/

namespace Sys2Proof.Machine

/-- A status word with one bit set or cleared, the others unchanged. -/
def putBit (st : BitVec 4) (k : Nat) (b : Bool) : BitVec 4 :=
  if b then st ||| (1#4 <<< k) else st &&& ~~~(1#4 <<< k)

/-- `STATUS.BUSY`, bit 0. -/
def State.busy (s : State) : Bool := s.status.getLsbD 0

/-- `STATUS.OPEN`, bit 1. -/
def State.isOpen (s : State) : Bool := s.status.getLsbD 1

/-- `STATUS.HBVALID`, bit 2. -/
def State.hbvalid (s : State) : Bool := s.status.getLsbD 2

/-- `STATUS.ABTP`, bit 3. -/
def State.abtp (s : State) : Bool := s.status.getLsbD 3

/-- `x[STATUS].BUSY <- b`. -/
def State.setBusy (b : Bool) (s : State) : State := { s with status := putBit s.status 0 b }

/-- `x[STATUS].OPEN <- b`. -/
def State.setOpen (b : Bool) (s : State) : State := { s with status := putBit s.status 1 b }

/-- `x[STATUS].HBVALID <- b`. -/
def State.setHbvalid (b : Bool) (s : State) : State := { s with status := putBit s.status 2 b }

/-- `x[STATUS].ABTP <- b`. -/
def State.setAbtp (b : Bool) (s : State) : State := { s with status := putBit s.status 3 b }

end Sys2Proof.Machine
end

