-- ==== Sys2Proof/Machine/Ops.lean ====
section
/-! DEFINITION. The named operations over memory, buffers and registers (spec/20_memory.md R60 to R67,
spec/10_state.md R41 to R43), and the end of a command: `complete` and `raise` (spec/00_scope.md R11,
spec/60_exceptions.md R231, R236), the block's one form of exception. -/

namespace Sys2Proof.Machine

/-! ## Memory -/

/-- The addresses of the byte-address view that hold a buffer byte (R64). -/
def isBufferAddress (a : Nat) : Bool := 0x200 ≤ a && a < 0xA00

/-- The byte written at an address, if any. -/
def Memory.read? : Memory → Nat → Option Byte
  | [], _ => none
  | (a', v) :: m, a => if a = a' then some v else Memory.read? m a

/-- Write one byte, keeping the addresses strictly rising. -/
def Memory.write : Memory → Nat → Byte → Memory
  | [], a, v => [(a, v)]
  | (a', v') :: m, a, v =>
    if a < a' then (a, v) :: (a', v') :: m
    else if a = a' then (a, v) :: m
    else (a', v') :: Memory.write m a v

/-- Write a sequence of bytes at consecutive addresses, in order. -/
def Memory.writeAll : Memory → Nat → List Byte → Memory
  | m, _, [] => m
  | m, a, v :: vs => Memory.writeAll (Memory.write m a v) (a + 1) vs

/-- Every listed address is above a bound and the addresses rise strictly. -/
def Memory.risesFrom : Memory → Nat → Bool
  | [], _ => true
  | (a, _) :: m, lo => lo ≤ a && Memory.risesFrom m (a + 1)

/-- The canonical form: addresses strictly rising, each the address of a buffer byte. An unlisted address holds no
written byte, so no entry can equal it. -/
def Memory.wf (m : Memory) : Bool :=
  Memory.risesFrom m 0x200 && m.all (fun c => c.1 < 0xA00)

/-- What the byte at a buffer address reads as: the byte written there, and where nothing has been written since the
last reset a free value (R276, U6, log 4). This is the one place that says so. -/
def State.byteOf (s : State) (a : Nat) : Byte := (s.mem.read? a).getD (Config.unwrittenByte s.resets a)

/-- `BufRead(b, i)`, `b[i]` of the pseudocode (R11, R63). -/
def State.bufByte (s : State) (b : Buf) (i : Nat) : Byte := s.byteOf (b.base + i)

/-- The bytes `b[0..n]`. -/
def State.bufBytes (s : State) (b : Buf) (n : Nat) : List Byte := (List.range n).map (s.bufByte b)

/-- `b[i] <- vs[i]` for every index of `vs`. -/
def State.writeBuf (b : Buf) (vs : List Byte) (s : State) : State :=
  { s with mem := s.mem.writeAll b.base vs }

/-- `b[i] <- v`. -/
def State.writeByte (b : Buf) (i : Nat) (v : Byte) (s : State) : State :=
  { s with mem := s.mem.write (b.base + i) v }

/-! ## Registers -/

/-- `RegRead` of an implemented register: its bits low, zeros above; a W register reads 0 (R42). -/
def State.readReg (s : State) : Reg → Word
  | .cmd => 0
  | .status => s.status.setWidth 32
  | .err => s.err.setWidth 32
  | .abort => 0
  | .acca => s.acca.setWidth 32
  | .accb => s.accb.setWidth 32
  | .dinlen => s.dinlen.setWidth 32
  | .pinlen => s.pinlen.setWidth 32
  | .doutlen => s.doutlen.setWidth 32
  | .poutlen => s.poutlen.setWidth 32
  | .txbits => s.txbits.setWidth 32
  | .rxbits => s.rxbits.setWidth 32
  | .rxcap => s.rxcap.setWidth 32
  | .rxpcap => s.rxpcap.setWidth 32
  | .rxcapbits => s.rxcapbits.setWidth 32
  | .timeout => s.timeout
  | .cycles => s.cycles
  | .hboff => s.hboff.setWidth 32

/-- `RegRead(r)`: a reserved index reads 0 (R41, R61). -/
def State.regRead (s : State) (r : BitVec 7) : Word :=
  match Reg.ofIndex r with
  | some reg => s.readReg reg
  | none => 0

/-- `RegWrite` of an RW register stores the low bits; of an R register changes nothing (R42). The writes of `CMD`
and `ABORT` that act are Machine/HostPort.lean's. -/
def State.writeReg (s : State) (v : Word) : Reg → State
  | .dinlen => { s with dinlen := v.setWidth 16 }
  | .pinlen => { s with pinlen := v.setWidth 16 }
  | .txbits => { s with txbits := v.setWidth 16 }
  | .rxcap => { s with rxcap := v.setWidth 16 }
  | .rxpcap => { s with rxpcap := v.setWidth 16 }
  | .rxcapbits => { s with rxcapbits := v.setWidth 16 }
  | .timeout => { s with timeout := v }
  | .cycles => { s with cycles := v }
  | .cmd => s
  | .status => s
  | .err => s
  | .abort => s
  | .acca => s
  | .accb => s
  | .doutlen => s
  | .poutlen => s
  | .rxbits => s
  | .hboff => s

/-- The byte at an address of the byte-address view of a wrapper (R64): registers little-endian, then the buffers;
`none` at an unmapped address. The host port itself has no such access (R65, log 21). -/
def State.viewByte (s : State) (a : Nat) : Option Byte :=
  if a < 0x200 then some ((s.regRead (BitVec.ofNat 7 (a / 4))).extractLsb' (8 * (a % 4)) 8)
  else if a < 0xA00 then some (s.byteOf a)
  else none

/-! ## The link, the host and the end of a command -/

/-- `LinkRequest(req)`: hand a request to the link (R160). -/
def State.request (q : LinkReq) (s : State) : State := { s with toLink := s.toLink ++ [q] }

/-- Return a value to the host (R61, R63). -/
def State.reply (r : HostReply) (s : State) : State := { s with toHost := s.toHost ++ [r] }

/-- `complete(c)`: end a command with `x[ERR] <- c` (R11, R25). -/
def State.finish (k : ErrKind) (s : State) : State := { s with err := k.code }

/-- `raise E`: the command ends at once with `x[ERR] <- code(E)` and no other change (R236). The block has no
handler, saves nothing and returns from nothing (R231, R240). -/
def raise (e : ErrKind) (s : State) : Outcome := .next (s.finish e)

/-- The host may write only while `BUSY = 0`; any other write but the one to `ABORT` is refused (R266, log 8). -/
def whenIdle (s : State) (o : Outcome) : Outcome := if s.busy then .refused .writeWhileBusy else o

/-- Go on from a next state. -/
def thenNext (o : Outcome) (f : State → State) : Outcome :=
  match o with
  | .next s => .next (f s)
  | .fault r => .fault r
  | .refused r => .refused r

end Sys2Proof.Machine
end

