-- ==== Sys2Proof/Machine/Operands.lean ====
section
/-! DEFINITION. The operands commands read (spec/10_state.md R29 to R39) and the local checks of the link commands
(spec/44_transceive_initiator.md R166 to R168). Lengths are natural numbers here and never wrap
(spec/40_crc_a.md R108). -/

namespace Sys2Proof.Machine

/-- `x[DINLEN]` as a number. -/
def State.dinN (s : State) : Nat := s.dinlen.toNat

/-- `DIN[0..DINLEN]`: the source's `data`, `uid`, `ats`, `tx` (R29). -/
def State.dinBytes (s : State) : List Byte := s.bufBytes .din s.dinN

/-- `sext_32(x[TIMEOUT])` (R38). -/
def State.timeoutInt (s : State) : Int := s.timeout.toInt

/-- `ceil8(x[TXBITS])`, the bytes of a bit frame that are sent (R176). -/
def State.txBytes (s : State) : Nat := ceil8 s.txbits.toNat

/-- `tx_pre` (R167). -/
def State.txPre (s : State) : Bool := s.pinlen == s.dinlen && decide (s.dinlen.toNat * 8 ≥ s.txbits.toNat)

/-- `rx_pre` (R168). -/
def State.rxPre (s : State) : Bool := s.rxpcap == s.rxcap && decide (s.rxcap.toNat * 8 ≥ s.rxcapbits.toNat)

/-- The eight local checks, numbered as in R166. -/
inductive LocalCheck where
  /-- 1: the device is open -/
  | deviceOpen
  /-- 2: `DINLEN <= 512` -/
  | dinFits
  /-- 3: `PINLEN <= 512` -/
  | pinFits
  /-- 4: `RXCAP <= 512` -/
  | rxcapFits
  /-- 5: `RXPCAP <= 512` -/
  | rxpcapFits
  /-- 6: `sext_32(TIMEOUT) >= -1` -/
  | timeoutLegal
  /-- 7: `tx_pre` -/
  | txPrecondition
  /-- 8: `rx_pre` -/
  | rxPrecondition
  deriving DecidableEq, Repr

/-- A check passes. -/
def LocalCheck.passes (s : State) : LocalCheck → Bool
  | .deviceOpen => s.isOpen
  | .dinFits => decide (s.dinlen.toNat ≤ Config.frameCap)
  | .pinFits => decide (s.pinlen.toNat ≤ Config.frameCap)
  | .rxcapFits => decide (s.rxcap.toNat ≤ Config.frameCap)
  | .rxpcapFits => decide (s.rxpcap.toNat ≤ Config.frameCap)
  | .timeoutLegal => decide (Config.timeoutDefault ≤ s.timeoutInt)
  | .txPrecondition => s.txPre
  | .rxPrecondition => s.rxPre

/-- What a failed check raises (R166). -/
def LocalCheck.error : LocalCheck → ErrKind
  | .deviceOpen => .deviceClosed
  | .dinFits => .invalidArgument
  | .pinFits => .invalidArgument
  | .rxcapFits => .invalidArgument
  | .rxpcapFits => .invalidArgument
  | .timeoutLegal => .invalidArgument
  | .txPrecondition => .invalidArgument
  | .rxPrecondition => .invalidArgument

/-- The error of the first check that fails (R166: "the first that fails decides the error"). -/
def firstFailure (s : State) : List LocalCheck → Option ErrKind
  | [] => none
  | c :: cs => if c.passes s then firstFailure s cs else some c.error

end Sys2Proof.Machine
end

