-- ==== Sys2Proof/Machine/Crc.lean ====
section
/-! DEFINITION. The CRC step function and the computations the two generators share
(spec/40_crc_a.md R100, R106; spec/41_crc_b.md R120). -/

namespace Sys2Proof.Machine

/-- `crcstep(c, b)` (R100). -/
def crcStep (c : Half) (b : Byte) : Half :=
  let t1 : Byte := b ^^^ c.setWidth 8
  let t2 : Byte := t1 ^^^ (t1 <<< 4)
  let u : Half := t2.setWidth 16
  (c >>> 8) ^^^ (u <<< 8) ^^^ (u <<< 3) ^^^ (u >>> 4)

/-- The CRC of a byte sequence from a seed: one step per byte, in order (R104, R123). -/
def crcOf (seed : Half) (bytes : List Byte) : Half := bytes.foldl crcStep seed

/-- `acc[7:0]` and `acc[15:8]`, low byte first (R67, R106), after the output stage's XOR (R6: none). -/
def crcBytes (xorOut acc : Half) : List Byte :=
  let out := acc ^^^ xorOut
  [out.extractLsb' 0 8, out.extractLsb' 8 8]

/-- The result of `append_*_crc`: the data with the two CRC bytes appended (R105, R124). -/
def crcAppended (seed xorOut : Half) (bytes : List Byte) : List Byte :=
  bytes ++ crcBytes xorOut (crcOf seed bytes)

/-- The most data bytes an append can take: the result must fit `DOUT` (R105). -/
def appendCap : Nat := Config.frameCap - 2

/-- Put a result of a compute command in `DOUT` and its length in `DOUTLEN`. -/
def State.result (bytes : List Byte) (s : State) : State :=
  { s.writeBuf .dout bytes with doutlen := BitVec.ofNat 16 bytes.length }

end Sys2Proof.Machine
end

