-- ==== Sys2Proof/Machine/Ats.lean ====
section
/-! DEFINITION. ATS.LOCHB: the historical-bytes locator (spec/43_ats_locator.md). -/

namespace Sys2Proof.Machine

/-- One bracketed term of the offset: 1 when the byte at index `i` is present and has a bit of the mask set (R150;
an absent byte counts 0, R151). -/
def indicator (ats : List Byte) (i : Nat) (mask : Byte) : Nat :=
  match ats[i]? with
  | some b => if b &&& mask ≠ 0 then 1 else 0
  | none => 0

/-- The offset at which historical bytes begin; 0 for the empty ATS (R150, R154). -/
def historicalOffset (ats : List Byte) : Nat :=
  if ats.length = 0 then 0
  else 1 + indicator ats 0 0x10 + indicator ats 1 0x20 + indicator ats 2 0x40

/-- The historical bytes, when there are any: a length equal to the offset gives none (R152). -/
def historicalBytes (ats : List Byte) : Option (List Byte) :=
  if ats.length ≤ historicalOffset ats then none else some (ats.drop (historicalOffset ats))

/-- `ATS.LOCHB` (R150). `None` is no error. -/
def execAtsLochb (s : State) : Outcome :=
  whenIdle s
    (if s.dinN > Config.frameCap then raise .invalidArgument s
     else
       let found := historicalBytes s.dinBytes
       .next (State.finish .success
         (State.setHbvalid found.isSome
           (State.result (found.getD [])
             { s with hboff := BitVec.ofNat 16 (historicalOffset s.dinBytes) }))))

end Sys2Proof.Machine
end

