-- ==== Sys2Proof/Machine/Cascade.lean ====
section
/-! DEFINITION. CASC: the UID cascade encoder (spec/42_uid_cascade.md). -/

namespace Sys2Proof.Machine

/-- The cascade-tagged UID (R140): 7 and 10 bytes get their tags, every other length is returned unchanged. -/
def cascade (uid : List Byte) : List Byte :=
  if uid.length = 7 then Config.cascadeTag :: uid
  else if uid.length = 10 then
    Config.cascadeTag :: uid.take 3 ++ Config.cascadeTag :: uid.drop 3
  else uid

/-- `CASC.ENC` (R140, R141). -/
def execCascEnc (s : State) : Outcome :=
  whenIdle s
    (if s.dinN > Config.frameCap then raise .invalidArgument s
     else .next (State.finish .success (s.result (cascade s.dinBytes))))

end Sys2Proof.Machine
end

