-- ==== Sys2Proof/Machine/CrcA.lean ====
section
/-! DEFINITION. CRCA: the commands of spec/40_crc_a.md. -/

namespace Sys2Proof.Machine

/-- `CRCA.INIT` (R101): `ACCA` takes its seed `0x6363`. -/
def execCrcaInit (s : State) : Outcome :=
  whenIdle s (.next (State.finish .success { s with acca := Config.seedA }))

/-- `CRCA.UPD imm8` (R102): one step of whatever `ACCA` holds. -/
def execCrcaUpd (imm8 : Byte) (s : State) : Outcome :=
  whenIdle s (.next (State.finish .success { s with acca := crcStep s.acca imm8 }))

/-- `CRCA.CALC` (R104): the CRC of `DIN[0..DINLEN]` from the seed. -/
def execCrcaCalc (s : State) : Outcome :=
  whenIdle s
    (if s.dinN > Config.frameCap then raise .invalidArgument s
     else .next (State.finish .success { s with acca := crcOf Config.seedA s.dinBytes }))

/-- `CRCA.APPEND` (R105): `DIN[0..DINLEN]` and its CRC, low byte first, to `DOUT`. -/
def execCrcaAppend (s : State) : Outcome :=
  whenIdle s
    (if s.dinN > appendCap then raise .invalidArgument s
     else .next (State.finish .success
       (State.result (crcAppended Config.seedA Config.xorOutA s.dinBytes)
         { s with acca := crcOf Config.seedA s.dinBytes })))

end Sys2Proof.Machine
end

