-- ==== Sys2Proof/Machine/CrcB.lean ====
section
/-! DEFINITION. CRCB: the commands of spec/41_crc_b.md. -/

namespace Sys2Proof.Machine

/-- `CRCB.INIT` (R121): `ACCB` takes its seed `0xFFFF`. -/
def execCrcbInit (s : State) : Outcome :=
  whenIdle s (.next (State.finish .success { s with accb := Config.seedB }))

/-- `CRCB.UPD imm8` (R122): one step of whatever `ACCB` holds. -/
def execCrcbUpd (imm8 : Byte) (s : State) : Outcome :=
  whenIdle s (.next (State.finish .success { s with accb := crcStep s.accb imm8 }))

/-- `CRCB.CALC` (R123): the CRC of `DIN[0..DINLEN]` from the seed. -/
def execCrcbCalc (s : State) : Outcome :=
  whenIdle s
    (if s.dinN > Config.frameCap then raise .invalidArgument s
     else .next (State.finish .success { s with accb := crcOf Config.seedB s.dinBytes }))

/-- `CRCB.APPEND` (R124): `DIN[0..DINLEN]` and its CRC, low byte first, to `DOUT`. -/
def execCrcbAppend (s : State) : Outcome :=
  whenIdle s
    (if s.dinN > appendCap then raise .invalidArgument s
     else .next (State.finish .success
       (State.result (crcAppended Config.seedB Config.xorOutB s.dinBytes)
         { s with accb := crcOf Config.seedB s.dinBytes })))

end Sys2Proof.Machine
end

