-- ==== Sys2Proof/Machine/Link.lean ====
section
/-! DEFINITION. What all link commands share: the issue step, the receive procedures and the end of the completion
step (spec/44_transceive_initiator.md R164 to R173). -/

namespace Sys2Proof.Machine

/-- The bookkeeping of an issue step whose checks pass: `ABTP <- 0`, `BUSY <- 1`, `PEND <- op` (R164). -/
def State.goBusy (op : Byte) (s : State) : State :=
  { (s.setAbtp false).setBusy true with pend := op }

/-- The end of a completion step: `BUSY <- 0`, `ABTP <- 0` (R165). -/
def State.endPending (s : State) : State := (s.setBusy false).setAbtp false

/-- The issue step (R164): run the local checks, and when all pass go `BUSY` and hand the request, built from the
state before the step, to the link. -/
def issue (op : LinkOp) (checks : List LocalCheck) (req : State → LinkReq) (s : State) : Outcome :=
  whenIdle s
    (match firstFailure s checks with
     | some e => raise e s
     | none => .next ((s.goBusy op.opcode).request (req s)))

/-- Deliver received bytes with a final code: `DOUT[0..n]`, `DOUTLEN`, `ERR` (R169). -/
def deliverBytes (bytes : List Byte) (k : ErrKind) (s : State) : Outcome :=
  if bytes.length > Config.frameCap then .fault .outsideBuffer
  else .next (State.finish k { s.writeBuf .dout bytes with doutlen := BitVec.ofNat 16 bytes.length })

/-- Deliver received bits with a final code: `DOUT`, `POUT`, their lengths, `RXBITS`, `ERR` (R170). -/
def deliverBits (bytes par : List Byte) (m bits : Nat) (k : ErrKind) (s : State) : Outcome :=
  if m > Config.frameCap then .fault .outsideBuffer
  else .next (State.finish k
    { (s.writeBuf .dout (bytes.take m)).writeBuf .pout (par.take m) with
      doutlen := BitVec.ofNat 16 m
      poutlen := BitVec.ofNat 16 m
      rxbits := BitVec.ofNat 16 bits })

/-- `recv_bytes(rsp)` (R169), with the overflow policy of R171. -/
def recvBytes (rsp : LinkRsp) (s : State) : Outcome :=
  if rsp.code ≠ .success then .next (State.finish rsp.code.kind { s with doutlen := 0 })
  else if rsp.data.length > s.rxcap.toNat then
    deliverBytes (rsp.data.take s.rxcap.toNat) .overflow s
  else deliverBytes rsp.data .success s

/-- `recv_bits(rsp)` (R170), with the overflow policy of R171. -/
def recvBits (rsp : LinkRsp) (s : State) : Outcome :=
  if rsp.code ≠ .success then
    .next (State.finish rsp.code.kind { s with doutlen := 0, poutlen := 0, rxbits := 0 })
  else if rsp.nbits > s.rxcapbits.toNat then
    deliverBits rsp.data rsp.par (ceil8 s.rxcapbits.toNat) s.rxcapbits.toNat .overflow s
  else deliverBits rsp.data rsp.par (ceil8 rsp.nbits) rsp.nbits .success s

/-- `if recv(rsp): x[CYCLES] <- rsp.cycles`: the receive procedure returns true when the link answered `Success`
(R173). -/
def withCycles (rsp : LinkRsp) (o : Outcome) : Outcome :=
  thenNext o (fun t => if rsp.code = .success then { t with cycles := rsp.cycles } else t)

/-- The completion of a send-only command: `complete(rsp.code)` (R192, R194). -/
def sendDone (rsp : LinkRsp) (s : State) : Outcome := .next (s.finish rsp.code.kind)

end Sys2Proof.Machine
end

