-- ==== Sys2Proof/Machine/Initiator.lean ====
section
/-! DEFINITION. XCVR, initiator-mode commands (spec/44_transceive_initiator.md R174 to R177): for each its request,
its issue step and its completion rule. Parity and CRC are carried, never computed (R178, R179). -/

namespace Sys2Proof.Machine

/-- The request of `XCV.BYTES` (R174). -/
def reqXcvBytes (s : State) : LinkReq :=
  { op := .command 0x40, data := s.dinBytes, nbits := 8 * s.dinN, rxcap := s.rxcap.toNat, timeout := s.timeoutInt }

/-- `XCV.BYTES`, issue: checks 1, 2, 4, 6 (R174). -/
def execXcvBytes (s : State) : Outcome :=
  issue .xcvBytes [.deviceOpen, .dinFits, .rxcapFits, .timeoutLegal] reqXcvBytes s

/-- `XCV.BYTES`, completion (R174). -/
def doneXcvBytes (rsp : LinkRsp) (s : State) : Outcome := recvBytes rsp s

/-- The request of `XCV.BYTES.T` (R175). -/
def reqXcvBytesT (s : State) : LinkReq :=
  { op := .command 0x41, data := s.dinBytes, nbits := 8 * s.dinN, rxcap := s.rxcap.toNat, cycles := s.cycles }

/-- `XCV.BYTES.T`, issue: checks 1, 2, 4 (R175). -/
def execXcvBytesT (s : State) : Outcome :=
  issue .xcvBytesT [.deviceOpen, .dinFits, .rxcapFits] reqXcvBytesT s

/-- `XCV.BYTES.T`, completion (R175). -/
def doneXcvBytesT (rsp : LinkRsp) (s : State) : Outcome := withCycles rsp (recvBytes rsp s)

/-- The request of `XCV.BITS` (R176). -/
def reqXcvBits (s : State) : LinkReq :=
  { op := .command 0x42, data := s.bufBytes .din s.txBytes, par := s.bufBytes .pin s.txBytes,
    nbits := s.txbits.toNat, rxcap := s.rxcap.toNat, rxcapbits := s.rxcapbits.toNat }

/-- `XCV.BITS`, issue: checks 1, 2, 3, 4, 5, 7, 8 (R176). -/
def execXcvBits (s : State) : Outcome :=
  issue .xcvBits
    [.deviceOpen, .dinFits, .pinFits, .rxcapFits, .rxpcapFits, .txPrecondition, .rxPrecondition] reqXcvBits s

/-- `XCV.BITS`, completion (R176). -/
def doneXcvBits (rsp : LinkRsp) (s : State) : Outcome := recvBits rsp s

/-- The request of `XCV.BITS.T` (R177). -/
def reqXcvBitsT (s : State) : LinkReq :=
  { op := .command 0x43, data := s.bufBytes .din s.txBytes, par := s.bufBytes .pin s.txBytes,
    nbits := s.txbits.toNat, rxcap := s.rxcap.toNat, rxcapbits := s.rxcapbits.toNat, cycles := s.cycles }

/-- `XCV.BITS.T`, issue: checks 1, 2, 3, 4, 5, 7, 8 (R177). -/
def execXcvBitsT (s : State) : Outcome :=
  issue .xcvBitsT
    [.deviceOpen, .dinFits, .pinFits, .rxcapFits, .rxpcapFits, .txPrecondition, .rxPrecondition] reqXcvBitsT s

/-- `XCV.BITS.T`, completion (R177). -/
def doneXcvBitsT (rsp : LinkRsp) (s : State) : Outcome := withCycles rsp (recvBits rsp s)

end Sys2Proof.Machine
end

