-- ==== Sys2Proof/Machine/Session.lean ====
section
/-! DEFINITION. XCVR, device session and abort (spec/46_link_session_abort.md R210 to R216). -/

namespace Sys2Proof.Machine

/-- The request of `LNK.OPEN` (R211). -/
def reqLnkOpen : LinkReq := { op := .command 0x60 }

/-- The request of `LNK.CLOSE` (R212). -/
def reqLnkClose : LinkReq := { op := .command 0x61 }

/-- The abort marker (R160, R214). -/
def reqAbort : LinkReq := { op := .abort }

/-- `LNK.OPEN` (R211). It completes inside its own step with the code the link returns, `openCode` (log 3). -/
def execLnkOpen (s : State) : Outcome :=
  whenIdle s
    (if s.isOpen then raise .invalidArgument s
     else
       let asked := s.request reqLnkOpen
       .next (State.finish s.openCode.kind
         (if s.openCode = .success then asked.setOpen true else asked)))

/-- `LNK.CLOSE` (R212): always `Success`; the link hears of it only when a session is open. -/
def execLnkClose (s : State) : Outcome :=
  whenIdle s
    (.next (State.finish .success
      (if s.isOpen then (s.request reqLnkClose).setOpen false else s)))

/-- `ABORT` (R214): the effect of a write to `ABORT` with bit 0 set. It is no command: it writes no `ERR` and is
accepted also while `BUSY = 1`. -/
def execAbort (s : State) : Outcome :=
  .next (if s.busy then (s.setAbtp true).request reqAbort else s)

end Sys2Proof.Machine
end

