-- ==== Sys2Proof/Machine/Target.lean ====
section
/-! DEFINITION. XCVR, target-mode commands (spec/45_transceive_target.md R191 to R195). No order among them is
enforced (R196). -/

namespace Sys2Proof.Machine

/-- The request of `TGT.INIT` (R191). -/
def reqTgtInit (s : State) : LinkReq :=
  { op := .command 0x50, rxcap := s.rxcap.toNat, timeout := s.timeoutInt }

/-- `TGT.INIT`, issue: checks 1, 4, 6 (R191). -/
def execTgtInit (s : State) : Outcome :=
  issue .tgtInit [.deviceOpen, .rxcapFits, .timeoutLegal] reqTgtInit s

/-- `TGT.INIT`, completion (R191). -/
def doneTgtInit (rsp : LinkRsp) (s : State) : Outcome := recvBytes rsp s

/-- The request of `TGT.SENDB` (R192). -/
def reqTgtSendb (s : State) : LinkReq :=
  { op := .command 0x51, data := s.dinBytes, nbits := 8 * s.dinN, timeout := s.timeoutInt }

/-- `TGT.SENDB`, issue: checks 1, 2, 6 (R192). -/
def execTgtSendb (s : State) : Outcome :=
  issue .tgtSendb [.deviceOpen, .dinFits, .timeoutLegal] reqTgtSendb s

/-- `TGT.SENDB`, completion (R192). -/
def doneTgtSendb (rsp : LinkRsp) (s : State) : Outcome := sendDone rsp s

/-- The request of `TGT.RECVB` (R193). -/
def reqTgtRecvb (s : State) : LinkReq :=
  { op := .command 0x52, rxcap := s.rxcap.toNat, timeout := s.timeoutInt }

/-- `TGT.RECVB`, issue: checks 1, 4, 6 (R193). -/
def execTgtRecvb (s : State) : Outcome :=
  issue .tgtRecvb [.deviceOpen, .rxcapFits, .timeoutLegal] reqTgtRecvb s

/-- `TGT.RECVB`, completion (R193). -/
def doneTgtRecvb (rsp : LinkRsp) (s : State) : Outcome := recvBytes rsp s

/-- The request of `TGT.SENDBITS` (R194). -/
def reqTgtSendbits (s : State) : LinkReq :=
  { op := .command 0x53, data := s.bufBytes .din s.txBytes, par := s.bufBytes .pin s.txBytes,
    nbits := s.txbits.toNat }

/-- `TGT.SENDBITS`, issue: checks 1, 2, 3, 7 (R194). -/
def execTgtSendbits (s : State) : Outcome :=
  issue .tgtSendbits [.deviceOpen, .dinFits, .pinFits, .txPrecondition] reqTgtSendbits s

/-- `TGT.SENDBITS`, completion (R194). -/
def doneTgtSendbits (rsp : LinkRsp) (s : State) : Outcome := sendDone rsp s

/-- The request of `TGT.RECVBITS` (R195). -/
def reqTgtRecvbits (s : State) : LinkReq :=
  { op := .command 0x54, rxcap := s.rxcap.toNat, rxcapbits := s.rxcapbits.toNat }

/-- `TGT.RECVBITS`, issue: checks 1, 4, 5, 8 (R195). -/
def execTgtRecvbits (s : State) : Outcome :=
  issue .tgtRecvbits [.deviceOpen, .rxcapFits, .rxpcapFits, .rxPrecondition] reqTgtRecvbits s

/-- `TGT.RECVBITS`, completion (R195). -/
def doneTgtRecvbits (rsp : LinkRsp) (s : State) : Outcome := recvBits rsp s

end Sys2Proof.Machine
end

