-- ==== Sys2Proof/Machine/Dispatch.lean ====
section
/-! DEFINITION. The meaning of every operation: one arm per constructor of Instr. -/

namespace Sys2Proof.Machine

def exec (i : Instr) (s : State) : Host.Outcome State Fault Refusal :=
  match i with
  | .crcaInit => Sys2Proof.Machine.execCrcaInit s
  | .crcaUpd imm8 => Sys2Proof.Machine.execCrcaUpd imm8 s
  | .crcaCalc => Sys2Proof.Machine.execCrcaCalc s
  | .crcaAppend => Sys2Proof.Machine.execCrcaAppend s
  | .crcbInit => Sys2Proof.Machine.execCrcbInit s
  | .crcbUpd imm8 => Sys2Proof.Machine.execCrcbUpd imm8 s
  | .crcbCalc => Sys2Proof.Machine.execCrcbCalc s
  | .crcbAppend => Sys2Proof.Machine.execCrcbAppend s
  | .cascEnc => Sys2Proof.Machine.execCascEnc s
  | .atsLochb => Sys2Proof.Machine.execAtsLochb s
  | .xcvBytes => Sys2Proof.Machine.execXcvBytes s
  | .xcvBytesT => Sys2Proof.Machine.execXcvBytesT s
  | .xcvBits => Sys2Proof.Machine.execXcvBits s
  | .xcvBitsT => Sys2Proof.Machine.execXcvBitsT s
  | .tgtInit => Sys2Proof.Machine.execTgtInit s
  | .tgtSendb => Sys2Proof.Machine.execTgtSendb s
  | .tgtRecvb => Sys2Proof.Machine.execTgtRecvb s
  | .tgtSendbits => Sys2Proof.Machine.execTgtSendbits s
  | .tgtRecvbits => Sys2Proof.Machine.execTgtRecvbits s
  | .lnkOpen => Sys2Proof.Machine.execLnkOpen s
  | .lnkClose => Sys2Proof.Machine.execLnkClose s
  | .abort => Sys2Proof.Machine.execAbort s

end Sys2Proof.Machine
end

