-- ==== Sys2Proof/Machine/HostPort.lean ====
section
/-! DEFINITION. The moves of the agents: the host port's transactions (spec/20_memory.md R61 to R63), the abort
write (spec/46_link_session_abort.md R214), the link's response (spec/44_transceive_initiator.md R165) and the reset
input (spec/70_reset_and_hazards.md R260, R261). -/

namespace Sys2Proof.Machine

/-- A write to `CMD`: issue the command the word selects (R23, R80); an illegal word completes at once with
`NotImplemented` and changes nothing else (R86). -/
def writeCmd (w : Word) (s : State) : Outcome :=
  match decode .cmd w with
  | .instr i => exec i s
  | .rejected _ => whenIdle s (raise .notImplemented s)

/-- A write to `ABORT`: legal at any time; with bit 0 clear it does nothing (R26, R214). -/
def writeAbort (v : Word) (s : State) : Outcome :=
  match decode .abort v with
  | .instr i => exec i s
  | .rejected _ => .next s

/-- `RegWrite(r, v)` (R62). -/
def regWrite (r : BitVec 7) (v : Word) (s : State) : Outcome :=
  match Reg.ofIndex r with
  | none => whenIdle s (.next s)
  | some .cmd => writeCmd v s
  | some .abort => writeAbort v s
  | some reg => whenIdle s (.next (s.writeReg v reg))

/-- `BufWrite(b, i, v)` (R63): `DOUT` and `POUT` are read-only to the host. -/
def bufWrite (b : Buf) (i : Nat) (v : Byte) (s : State) : Outcome :=
  whenIdle s (.next (if b.hostWritable then s.writeByte b i v else s))

/-- One host transaction. A read changes no state of the block and is legal while `BUSY = 1` (R61, R63, R267). -/
def hostTransaction (t : HostTxn) (s : State) : Outcome :=
  match t with
  | .regRead r => .next (s.reply (.word (s.regRead r)))
  | .regWrite r v => regWrite r v s
  | .bufRead b i => .next (s.reply (.byte (s.bufByte (Buf.ofNumber b) i.toNat)))
  | .bufWrite b i v => bufWrite (Buf.ofNumber b) i.toNat v s

/-- The completion rule of a link command (R174 to R177, R191 to R195). -/
def completionRule (op : LinkOp) (rsp : LinkRsp) (s : State) : Outcome :=
  match op with
  | .xcvBytes => doneXcvBytes rsp s
  | .xcvBytesT => doneXcvBytesT rsp s
  | .xcvBits => doneXcvBits rsp s
  | .xcvBitsT => doneXcvBitsT rsp s
  | .tgtInit => doneTgtInit rsp s
  | .tgtSendb => doneTgtSendb rsp s
  | .tgtRecvb => doneTgtRecvb rsp s
  | .tgtSendbits => doneTgtSendbits rsp s
  | .tgtRecvbits => doneTgtRecvbits rsp s

/-- The completion step (R165). A response with nothing pending is dropped (R261, U17); one whose shape is not the
pending command's cannot be delivered (R161). -/
def complete (rsp : LinkRsp) (s : State) : Outcome :=
  if s.busy then
    match LinkOp.ofOpcode s.pend with
    | none => .fault .noCompletionRule
    | some op =>
      if rsp.hasShape op.shape then thenNext (completionRule op rsp s) State.endPending
      else .refused .illShapedResponse
  else .next s

/-- The reset input: accepted in every state, abandons a pending command, tells the link nothing (R260, R261). The
buffers' bytes are unspecified again, so the free values are new ones (log 5); what the link and the host already
received and the moves still to come are not the block's and stay (log 20). -/
def resetBlock (s : State) : State :=
  { State.reset with
    openCode := s.openCode
    toLink := s.toLink
    toHost := s.toHost
    events := s.events
    resets := s.resets + 1 }

/-- One move of an agent. -/
def move (e : Event) (s : State) : Outcome :=
  match e with
  | .host t c => hostTransaction t { s with openCode := c }
  | .abortWrite v => writeAbort v s
  | .link rsp => complete rsp s
  | .reset => .next (resetBlock s)

/-- Take the next move off the list, if there is one (log 1). -/
def nextMove (s : State) : Outcome :=
  match s.events with
  | [] => .next s
  | e :: rest => move e { s with events := rest }

/-- The event that issues a word of the opcode table: a `RegWrite` of the port the word belongs to (R80, R83); a
word that selects nothing is written to `CMD`. -/
def issueEvent (nbits w : Nat) (openCode : LinkCode) : Event :=
  match tableEntry nbits w with
  | some (.abort, _) => .host (.regWrite 3 (BitVec.ofNat 32 w)) openCode
  | some (.cmd, _) => .host (.regWrite 0 (BitVec.ofNat 32 w)) openCode
  | none => .host (.regWrite 0 (BitVec.ofNat 32 w)) openCode

end Sys2Proof.Machine
end

