-- ==== Sys2Proof/Machine/Step.lean ====
section
/-! DEFINITION. One step of the machine, and how an instruction is placed before it. -/

namespace Sys2Proof.Machine

/-- One step: the next move of an agent. The block takes no step of its own (spec/00_scope.md R7), so with no move
to come the state stays as it is (log 1). -/
def step (s : State) : Host.Outcome State Fault Refusal := nextMove s

/-- `s` with the write that issues an opcode-table word as its next move: the block fetches nothing, a command word
travels in the write itself (spec/20_memory.md R75; log 2). -/
def State.withFetchWord (s : State) (nbits w : Nat) : State :=
  { s with events := issueEvent nbits w s.openCode :: s.events }

end Sys2Proof.Machine
end

