-- ==== Sys2Proof/WellFormed.lean ====
section
/-! DEFINITION. Well-formedness: of an instruction, of a request and of a response. -/

namespace Sys2Proof

/-- Every term of `Instr` is well-formed: the one operand a command word carries is a byte by its type (R84), and
"every `imm8` from `0x00` to `0xFF` is legal" (R102). Written with one arm per constructor, so that an operand
added later cannot slip past. -/
def Instr.wellFormed : Instr → Bool
  | .crcaInit => true
  | .crcaUpd _ => true
  | .crcaCalc => true
  | .crcaAppend => true
  | .crcbInit => true
  | .crcbUpd _ => true
  | .crcbCalc => true
  | .crcbAppend => true
  | .cascEnc => true
  | .atsLochb => true
  | .xcvBytes => true
  | .xcvBytesT => true
  | .xcvBits => true
  | .xcvBitsT => true
  | .tgtInit => true
  | .tgtSendb => true
  | .tgtRecvb => true
  | .tgtSendbits => true
  | .tgtRecvbits => true
  | .lnkOpen => true
  | .lnkClose => true
  | .abort => true

namespace Machine

/-- A request record keeps the bounds of R160's table: each sequence at most 512 bytes, the bit counts at most
4096, the byte capacity at most 512, the timeout a signed 32-bit number. -/
def LinkReq.wellFormed (q : LinkReq) : Bool :=
  q.data.length ≤ 512 && q.par.length ≤ 512 && q.nbits ≤ 4096 && q.rxcap ≤ 512 && q.rxcapbits ≤ 4096 &&
    decide (-2147483648 ≤ q.timeout) && decide (q.timeout ≤ 2147483647)

/-- A response is well-formed for a pending command when it has that command's shape (R161). -/
def LinkRsp.wellFormedFor (rsp : LinkRsp) (op : LinkOp) : Bool := rsp.hasShape op.shape

end Machine
end Sys2Proof
end

