-- ==== Sys2Proof/Safety.lean ====
section
/-! DEFINITION. What counts as a good state (spec/10_state.md R48) and a safe run. -/

namespace Sys2Proof.Machine

/-- What the local checks of a pending receive guarantee until it completes (spec/44_transceive_initiator.md R166,
R168, R170; the host must not change a capacity meanwhile, R266). -/
def State.capacitiesFit (s : State) : RspShape → Prop
  | .bytes => s.rxcap.toNat ≤ 512
  | .bits => s.rxcapbits.toNat ≤ 4096
  | .sendOnly => True

/-- The invariant of every reachable state: the bounds and implications of R48, the memory's canonical form, and
that a pending command is one of the nine, with the capacities its checks admitted. -/
structure State.Inv (s : State) : Prop where
  mem_wf : s.mem.wf = true
  doutlen_le : s.doutlen.toNat ≤ 512
  poutlen_le : s.poutlen.toNat ≤ 512
  rxbits_le : s.rxbits.toNat ≤ 4096
  hboff_le : s.hboff.toNat ≤ 4
  err_le : s.err.toNat ≤ 14
  abtp_busy : s.abtp = true → s.busy = true
  busy_open : s.busy = true → s.isOpen = true
  pending : s.busy = true → ∃ op, LinkOp.ofOpcode s.pend = some op ∧ s.capacitiesFit op.shape

/-- A step does not fault. -/
def State.SafeStep (s : State) : Prop := ∀ r, step s ≠ .fault r

/-! ## Terms the statements use -/

/-- No row of the opcode map selects a word: the word is illegal (spec/30_encoding.md R86). -/
def Illegal (w : Word) : Prop := ∀ r ∈ opcodeMap, r.selects w = false

/-- Run operations one after the other. -/
def runAll : List Instr → State → Outcome
  | [], s => .next s
  | i :: is, s =>
    match exec i s with
    | .next t => runAll is t
    | .fault r => .fault r
    | .refused r => .refused r

/-- From `s` to `t` a link command with opcode `op` went `BUSY` and handed `req` to the link, and nothing else
changed: `ABTP` is 0, `OPEN` and `HBVALID` keep their values, `PEND` holds the opcode
(spec/44_transceive_initiator.md R164). -/
def WentBusy (op : Byte) (req : LinkReq) (s t : State) : Prop :=
  t.busy = true ∧ t.abtp = false ∧ t.isOpen = s.isOpen ∧ t.hbvalid = s.hbvalid ∧
    t = { s with status := t.status, pend := op, toLink := s.toLink ++ [req] }

/-- From `s` to `t` the bytes of buffer `b` from index 0 are `vs`, the bytes of `b'` from index 0 are `vs'`, and
every other address reads as before. -/
def StoresTwo (b : Buf) (vs : List Byte) (b' : Buf) (vs' : List Byte) (s t : State) : Prop :=
  (∀ i (h : i < vs.length), t.bufByte b i = vs[i]) ∧ (∀ i (h : i < vs'.length), t.bufByte b' i = vs'[i]) ∧
    ∀ a, ¬(b.base ≤ a ∧ a < b.base + vs.length) → ¬(b'.base ≤ a ∧ a < b'.base + vs'.length) →
      t.byteOf a = s.byteOf a

/-- From `s` to `t` the bytes of buffer `b` from index 0 are `vs`, and every other address reads as before. -/
def Stores (b : Buf) (vs : List Byte) (s t : State) : Prop := StoresTwo b vs b [] s t

/-- The source's recurrence in its own arithmetic, "mod 2^32" (spec/40_crc_a.md R100, R103). -/
def crcStep32 (c : Word) (b : Byte) : Word :=
  let b1 := b ^^^ c.setWidth 8
  let b2 := b1 ^^^ (b1 <<< 4)
  let u : Word := b2.setWidth 32
  (c >>> 8) ^^^ (u <<< 8) ^^^ (u <<< 3) ^^^ (u >>> 4)

/-- One round of the bit-serial form (spec/40_crc_a.md R107, law 5). -/
def serialRound (c : Half) : Half := (c >>> 1) ^^^ (if c.getLsbD 0 then 0x8408 else 0)

/-- The bit-serial form of one step: eight rounds (spec/40_crc_a.md R107, law 5). -/
def serialStep (c : Half) (b : Byte) : Half := serialRound^[8] (c ^^^ b.setWidth 16)

/-- The commands that take no device and complete at once: CRC, cascade and ATS
(spec/46_link_session_abort.md R213). -/
def isCompute : Instr → Bool
  | .crcaInit => true
  | .crcaUpd _ => true
  | .crcaCalc => true
  | .crcaAppend => true
  | .crcbInit => true
  | .crcbUpd _ => true
  | .crcbCalc => true
  | .crcbAppend => true
  | .cascEnc => true
  | .atsLochb => true
  | _ => false

/-- The nine link commands (spec/30_encoding.md R85). -/
def linkCommand : LinkOp → Instr
  | .xcvBytes => .xcvBytes
  | .xcvBytesT => .xcvBytesT
  | .xcvBits => .xcvBits
  | .xcvBitsT => .xcvBitsT
  | .tgtInit => .tgtInit
  | .tgtSendb => .tgtSendb
  | .tgtRecvb => .tgtRecvb
  | .tgtSendbits => .tgtSendbits
  | .tgtRecvbits => .tgtRecvbits

/-- The commands of CRCA. -/
def isCrca : Instr → Bool
  | .crcaInit => true
  | .crcaUpd _ => true
  | .crcaCalc => true
  | .crcaAppend => true
  | _ => false

/-- The commands of CRCB. -/
def isCrcb : Instr → Bool
  | .crcbInit => true
  | .crcbUpd _ => true
  | .crcbCalc => true
  | .crcbAppend => true
  | _ => false

/-- A command of the block brings `s` to `t`: a command issued, an abort, or a completion. -/
def CommandStep (s t : State) : Prop := (∃ i, exec i s = .next t) ∨ ∃ rsp, complete rsp s = .next t

end Sys2Proof.Machine
end

