-- ==== Sys2Proof/Certificates/Slice0/Obligations.lean ====
section
/-! DEFINITION. The statements about the machine, from the spec's numbered rules. Rule numbers are those of spec/. -/

open Sys2Proof Sys2Proof.Machine

/-! ## Encoding (spec/30_encoding.md) -/

/-- Decode and encode agree: every well-formed operation, with every immediate, is read back from its own word
(R81 to R85). -/
def Obligations.DecodeInvertsEncode : Prop :=
  ∀ i : Instr, i.wellFormed = true → decode (portOf i) (encode i) = .instr i

/-- No other word is read as an operation: a word that decodes is the operation's own word (for `ABORT`, whose bits
31:1 are ignored, a word with bit 0 set) on the operation's own port (R80, R83, R86). -/
def Obligations.OnlyOwnWordsDecode : Prop :=
  ∀ (p : Port) (w : Word) (i : Instr), decode p w = .instr i →
    portOf i = p ∧ (p = .cmd → encode i = w) ∧ (p = .abort → w.getLsbD 0 = true)

/-- "exactly one row matches or none does" (R80): two rows of the opcode map never select the same word. -/
def Obligations.OpcodeRowsNeverOverlap : Prop :=
  ∀ (w : Word) (j k : Nat) (hj : j < opcodeMap.length) (hk : k < opcodeMap.length),
    opcodeMap[j].selects w = true → opcodeMap[k].selects w = true → j = k

/-- Words written out from R85's table decode to the operations they stand for. -/
def Obligations.SampleWordsDecode : Prop :=
  decode .cmd 0x00000010 = .instr .crcaInit ∧ decode .cmd 0x0000FF11 = .instr (.crcaUpd 0xFF) ∧
  decode .cmd 0x00000013 = .instr .crcaAppend ∧ decode .cmd 0x00001221 = .instr (.crcbUpd 0x12) ∧
  decode .cmd 0x00000022 = .instr .crcbCalc ∧ decode .cmd 0x00000030 = .instr .cascEnc ∧
  decode .cmd 0x00000031 = .instr .atsLochb ∧ decode .cmd 0x00000042 = .instr .xcvBits ∧
  decode .cmd 0x00000051 = .instr .tgtSendb ∧ decode .cmd 0x00000061 = .instr .lnkClose ∧
  decode .abort 0x00000003 = .instr .abort

/-- R86: an unlisted opcode, a format N word with bits above 7 set and a format I word with bits above 15 set are
illegal, and issuing an illegal word completes at once with `ERR = 8` and changes nothing else. -/
def Obligations.IllegalWordOnlySetsErr : Prop :=
  (∀ w : Word, (∀ r ∈ opcodeMap, r.pattern ≠ (opOf w).setWidth 32) → Illegal w) ∧
  (∀ w : Word, w.extractLsb' 8 24 ≠ 0 → opOf w ≠ 0x11 → opOf w ≠ 0x21 → Illegal w) ∧
  (∀ w : Word, w.extractLsb' 16 16 ≠ 0 → Illegal w) ∧
  ∀ (s : State) (w : Word) (c : LinkCode) (rest : List Event), s.events = .host (.regWrite 0 w) c :: rest →
    s.busy = false → Illegal w → step s = .next { s with events := rest, openCode := c, err := 8 }

/-! ## A step runs the decoded operation -/

/-- The write that issues a word runs the operation the word decodes to, in the state after the move is taken off
the list: for `CMD`, for `ABORT` by the host and by the abort requester (R23, R26, R62, R214). The last clause, for a
word of the opcode table placed by `withFetchWord`, formalises no rule: where such a word is placed, and that a 32-bit
word which is no command word but has bit 0 set is placed as a write to `ABORT`, is the model's choice (DESIGN CHOICE,
log 2 and log 13). A write of that word to `CMD` is illegal (R86), which `IllegalWordOnlySetsErr` states. -/
def Obligations.StepRunsDecodedOperation : Prop :=
  (∀ (s : State) (w : Word) (c : LinkCode) (rest : List Event) (i : Instr),
    s.events = .host (.regWrite 0 w) c :: rest → decode .cmd w = .instr i →
      step s = exec i { s with events := rest, openCode := c }) ∧
  (∀ (s : State) (v : Word) (c : LinkCode) (rest : List Event), s.events = .host (.regWrite 3 v) c :: rest →
    step s = if v.getLsbD 0 then exec .abort { s with events := rest, openCode := c }
      else .next { s with events := rest, openCode := c }) ∧
  (∀ (s : State) (v : Word) (rest : List Event), s.events = .abortWrite v :: rest →
    step s = if v.getLsbD 0 then exec .abort { s with events := rest } else .next { s with events := rest }) ∧
  ∀ (s : State) (nbits w : Nat) (i : Instr), decodeTableWord nbits w = some i →
    step (s.withFetchWord nbits w) = exec i s

/-! ## The host port (spec/20_memory.md, spec/10_state.md) -/

/-- What a read returns, in every state (R42, R61, R63): a register's bits low with zeros above, 0 for `CMD` and
`ABORT`, a buffer's byte; the state of the block is unchanged. -/
def Obligations.ReadsReturnValueAndChangeNothing : Prop :=
  (∀ (s : State) (r : BitVec 7) (c : LinkCode) (rest : List Event), s.events = .host (.regRead r) c :: rest →
    step s = .next { s with events := rest, openCode := c, toHost := s.toHost ++ [.word (s.regRead r)] }) ∧
  (∀ (s : State) (b : BitVec 2) (i : BitVec 9) (c : LinkCode) (rest : List Event),
    s.events = .host (.bufRead b i) c :: rest →
    step s = .next { s with
      events := rest, openCode := c, toHost := s.toHost ++ [.byte (s.bufByte (Buf.ofNumber b) i.toNat)] }) ∧
  ∀ s : State,
    s.regRead 0 = 0 ∧ s.regRead 1 = s.status.setWidth 32 ∧ s.regRead 2 = s.err.setWidth 32 ∧ s.regRead 3 = 0 ∧
    s.regRead 4 = s.acca.setWidth 32 ∧ s.regRead 5 = s.accb.setWidth 32 ∧ s.regRead 6 = s.dinlen.setWidth 32 ∧
    s.regRead 7 = s.pinlen.setWidth 32 ∧ s.regRead 8 = s.doutlen.setWidth 32 ∧
    s.regRead 9 = s.poutlen.setWidth 32 ∧ s.regRead 10 = s.txbits.setWidth 32 ∧
    s.regRead 11 = s.rxbits.setWidth 32 ∧ s.regRead 12 = s.rxcap.setWidth 32 ∧
    s.regRead 13 = s.rxpcap.setWidth 32 ∧ s.regRead 14 = s.rxcapbits.setWidth 32 ∧ s.regRead 15 = s.timeout ∧
    s.regRead 16 = s.cycles ∧ s.regRead 17 = s.hboff.setWidth 32

/-- R41: a read of a reserved index returns 0, a write of one is ignored, and neither changes any state. -/
def Obligations.ReservedIndicesAreInert : Prop :=
  ∀ (s : State) (r : BitVec 7) (c : LinkCode) (rest : List Event), 18 ≤ r.toNat →
    (s.events = .host (.regRead r) c :: rest →
      step s = .next { s with events := rest, openCode := c, toHost := s.toHost ++ [.word 0] }) ∧
    ∀ v : Word, s.events = .host (.regWrite r v) c :: rest → s.busy = false →
      step s = .next { s with events := rest, openCode := c }

/-- A register write while `BUSY = 0` (R42, R62): an RW register takes the low bits of the value, a read-only
register keeps its value, and nothing else changes. -/
def Obligations.RegWriteStoresLowBits : Prop :=
  ∀ (s : State) (r : BitVec 7) (v : Word) (c : LinkCode) (rest : List Event),
    s.events = .host (.regWrite r v) c :: rest → s.busy = false →
    (r = 6 → step s = .next { s with events := rest, openCode := c, dinlen := v.setWidth 16 }) ∧
    (r = 7 → step s = .next { s with events := rest, openCode := c, pinlen := v.setWidth 16 }) ∧
    (r = 10 → step s = .next { s with events := rest, openCode := c, txbits := v.setWidth 16 }) ∧
    (r = 12 → step s = .next { s with events := rest, openCode := c, rxcap := v.setWidth 16 }) ∧
    (r = 13 → step s = .next { s with events := rest, openCode := c, rxpcap := v.setWidth 16 }) ∧
    (r = 14 → step s = .next { s with events := rest, openCode := c, rxcapbits := v.setWidth 16 }) ∧
    (r = 15 → step s = .next { s with events := rest, openCode := c, timeout := v }) ∧
    (r = 16 → step s = .next { s with events := rest, openCode := c, cycles := v }) ∧
    (r ∈ [1, 2, 4, 5, 8, 9, 11, 17] → step s = .next { s with events := rest, openCode := c })

/-- A buffer write while `BUSY = 0` (R43, R63): in `DIN` and `PIN` the byte at the index takes the value, `DOUT` and
`POUT` keep theirs, and every other byte of every buffer and every register is unchanged. -/
def Obligations.BufWriteStoresOneByte : Prop :=
  ∀ (s : State) (b : BitVec 2) (i : BitVec 9) (v : Byte) (c : LinkCode) (rest : List Event),
    s.events = .host (.bufWrite b i v) c :: rest → s.busy = false →
    ∃ t, step s = .next t ∧ t = { s with events := rest, openCode := c, mem := t.mem } ∧
      ∀ (b' : BitVec 2) (i' : BitVec 9), t.bufByte (Buf.ofNumber b') i'.toNat =
        if b' = b ∧ i' = i ∧ b.toNat < 2 then v else s.bufByte (Buf.ofNumber b') i'.toNat

/-- While `BUSY = 1` every write but the one to `ABORT` is refused, and so is every command (R266; the refusal is
what R266 and U2 ask of a model, also for read-only and reserved targets, log 8). -/
def Obligations.WritesWhileBusyAreRefused : Prop :=
  (∀ (s : State) (r : BitVec 7) (v : Word) (c : LinkCode) (rest : List Event),
    s.events = .host (.regWrite r v) c :: rest → s.busy = true → r ≠ 3 → step s = .refused .writeWhileBusy) ∧
  (∀ (s : State) (b : BitVec 2) (i : BitVec 9) (v : Byte) (c : LinkCode) (rest : List Event),
    s.events = .host (.bufWrite b i v) c :: rest → s.busy = true → step s = .refused .writeWhileBusy) ∧
  ∀ (s : State) (i : Instr), s.busy = true → i ≠ .abort → exec i s = .refused .writeWhileBusy

/-- The byte-address view (R64): a register's four bytes little-endian from `4 * r`, the four buffers at their
bases, nothing at an unmapped address. -/
def Obligations.ByteViewLayout : Prop :=
  ∀ s : State,
    (∀ (r : BitVec 7) (j : Nat), j < 4 →
      s.viewByte (4 * r.toNat + j) = some ((s.regRead r).extractLsb' (8 * j) 8)) ∧
    (∀ i, i < 512 → s.viewByte (0x200 + i) = some (s.bufByte .din i) ∧
      s.viewByte (0x400 + i) = some (s.bufByte .pin i) ∧ s.viewByte (0x600 + i) = some (s.bufByte .dout i) ∧
      s.viewByte (0x800 + i) = some (s.bufByte .pout i)) ∧
    ∀ a, 0xA00 ≤ a → s.viewByte a = none

/-! ## Reset (spec/70_reset_and_hazards.md, spec/10_state.md R47) -/

/-- The values the spec states for reset, in `State.reset` (R47). -/
def Obligations.ResetStateHasSpecValues : Prop :=
  State.reset.status = 0 ∧ State.reset.err = 0 ∧ State.reset.acca = 0x6363 ∧ State.reset.accb = 0xFFFF ∧
  State.reset.dinlen = 0 ∧ State.reset.pinlen = 0 ∧ State.reset.doutlen = 0 ∧ State.reset.poutlen = 0 ∧
  State.reset.txbits = 0 ∧ State.reset.rxbits = 0 ∧ State.reset.rxcap = 0 ∧ State.reset.rxpcap = 0 ∧
  State.reset.rxcapbits = 0 ∧ State.reset.hboff = 0 ∧ State.reset.timeout = 0 ∧ State.reset.cycles = 0

/-- R260: `Reset` is accepted in every state and leaves these values; the link is told nothing. -/
def Obligations.ResetAcceptedInEveryState : Prop :=
  ∀ (s : State) (rest : List Event), s.events = .reset :: rest → ∃ t, step s = .next t ∧
    t.status = 0 ∧ t.err = 0 ∧ t.acca = 0x6363 ∧ t.accb = 0xFFFF ∧ t.dinlen = 0 ∧ t.pinlen = 0 ∧
    t.doutlen = 0 ∧ t.poutlen = 0 ∧ t.txbits = 0 ∧ t.rxbits = 0 ∧ t.rxcap = 0 ∧ t.rxpcap = 0 ∧
    t.rxcapbits = 0 ∧ t.hboff = 0 ∧ t.timeout = 0 ∧ t.cycles = 0 ∧ t.toLink = s.toLink ∧ t.events = rest

/-- R261: a reset abandons the pending command, and a response that comes afterwards finds nothing pending and is
dropped: the block's state is the one the reset left. -/
def Obligations.ResetAbandonsPendingCommand : Prop :=
  ∀ (s : State) (rsp : LinkRsp) (rest : List Event), s.events = .reset :: .link rsp :: rest →
    ∃ t, step s = .next t ∧ t.busy = false ∧ t.err = 0 ∧ t.toLink = s.toLink ∧
      step t = .next { t with events := rest }

/-! ## The invariant (spec/10_state.md R48) -/

/-- The reset state satisfies the invariant. -/
def Obligations.InvariantHoldsAtReset : Prop := State.reset.Inv

/-- Every step keeps the invariant: R48's bounds and implications, the memory's canonical form, and that a pending
command is one of the nine with the capacities its checks admitted. -/
def Obligations.StepKeepsInvariant : Prop := ∀ s t : State, s.Inv → step s = .next t → t.Inv

/-- From a state with the invariant no step faults: the block has no fatal, stuck or halted state (R243). -/
def Obligations.NoFaultUnderInvariant : Prop := ∀ s : State, s.Inv → s.SafeStep

/-! ## The CRC step (spec/40_crc_a.md) -/

/-- R100: the step function, term by term, and the worked example. -/
def Obligations.CrcStepFormula : Prop :=
  (∀ (c : Half) (b : Byte),
    crcStep c b =
      let t1 := b ^^^ c.extractLsb' 0 8
      let t2 := t1 ^^^ (t1.extractLsb' 0 4 ++ 0#4)
      let u := (0#8 ++ t2 : Half)
      (c >>> 8) ^^^ (u <<< 8) ^^^ (u <<< 3) ^^^ (u >>> 4)) ∧
  crcStep 0x6363 0x00 = 0x51FE

/-- Law 5 of R107: the step equals eight rounds of the bit-serial shift register with constant `0x8408`. -/
def Obligations.CrcStepIsBitSerial : Prop := ∀ (c : Half) (b : Byte), crcStep c b = serialStep c b

/-- R103: the source's 32-bit arithmetic never sets a bit above bit 15, and a 16-bit accumulator holds it exactly. -/
def Obligations.SixteenBitsHoldTheCrc : Prop :=
  ∀ (c : Half) (b : Byte), crcStep32 (c.setWidth 32) b = (crcStep c b).setWidth 32

/-- Law 4 of R107: for each byte the step is a bijection on accumulators, for each accumulator it is injective in
the byte, and two sequences of equal length that differ in exactly one byte have different CRCs. -/
def Obligations.CrcDetectsOneChangedByte : Prop :=
  (∀ b : Byte, Function.Bijective (fun c : Half => crcStep c b)) ∧
  (∀ c : Half, Function.Injective (fun b : Byte => crcStep c b)) ∧
  ∀ (seed : Half) (p q : List Byte) (x y : Byte), x ≠ y → crcOf seed (p ++ x :: q) ≠ crcOf seed (p ++ y :: q)

/-- Law 6 of R107 and R125: with its CRC appended, low byte first, a sequence has CRC 0; so `CALC` over what
`APPEND` left in `DOUT`, copied to `DIN`, leaves 0 in the accumulator. -/
def Obligations.AppendedCrcHasZeroResidue : Prop :=
  (∀ (seed : Half) (d : List Byte),
    crcOf seed (d ++ [(crcOf seed d).extractLsb' 0 8, (crcOf seed d).extractLsb' 8 8]) = 0) ∧
  (∀ s t u : State, exec .crcaAppend s = .next t → t.err = 0 → u.busy = false → u.dinlen = t.doutlen →
    (∀ i, i < t.doutlen.toNat → u.bufByte .din i = t.bufByte .dout i) →
    exec .crcaCalc u = .next { u with acca := 0, err := 0 }) ∧
  ∀ s t u : State, exec .crcbAppend s = .next t → t.err = 0 → u.busy = false → u.dinlen = t.doutlen →
    (∀ i, i < t.doutlen.toNat → u.bufByte .din i = t.bufByte .dout i) →
    exec .crcbCalc u = .next { u with accb := 0, err := 0 }

/-- Law 1 of R107 and R125: `CALC` leaves the very state that `INIT` and one `UPD` per byte of `DIN` leave. -/
def Obligations.StreamingEqualsCalc : Prop :=
  ∀ s : State, s.busy = false → s.dinlen.toNat ≤ 512 →
    (∃ t, exec .crcaCalc s = .next t ∧
      runAll (.crcaInit :: (s.bufBytes .din s.dinlen.toNat).map .crcaUpd) s = .next t) ∧
    ∃ t, exec .crcbCalc s = .next t ∧
      runAll (.crcbInit :: (s.bufBytes .din s.dinlen.toNat).map .crcbUpd) s = .next t

/-! ## CRCA and CRCB (spec/40_crc_a.md, spec/41_crc_b.md) -/

/-- R101, R102: `CRCA.INIT` and `CRCA.UPD`: their words, and the whole next state (`ACCA` and `ERR` only). -/
def Obligations.CrcaInitAndUpd : Prop :=
  encode .crcaInit = 0x10 ∧ (∀ b : Byte, encode (.crcaUpd b) = 0x11 ||| (b.setWidth 32 <<< 8)) ∧
  ∀ s : State, s.busy = false →
    exec .crcaInit s = .next { s with acca := 0x6363, err := 0 } ∧
    ∀ b : Byte, exec (.crcaUpd b) s = .next { s with acca := crcStep s.acca b, err := 0 }

/-- R121, R122: `CRCB.INIT` and `CRCB.UPD`. -/
def Obligations.CrcbInitAndUpd : Prop :=
  encode .crcbInit = 0x20 ∧ (∀ b : Byte, encode (.crcbUpd b) = 0x21 ||| (b.setWidth 32 <<< 8)) ∧
  ∀ s : State, s.busy = false →
    exec .crcbInit s = .next { s with accb := 0xFFFF, err := 0 } ∧
    ∀ b : Byte, exec (.crcbUpd b) s = .next { s with accb := crcStep s.accb b, err := 0 }

/-- R104: `CRCA.CALC`: `ACCA` takes the CRC of `DIN[0..DINLEN]` from the seed, one step per byte in order; a
`DINLEN` above 512 is `InvalidArgument` and only `ERR` is written. -/
def Obligations.CrcaCalcResult : Prop :=
  encode .crcaCalc = 0x12 ∧ ∀ s : State, s.busy = false →
    (s.dinlen.toNat ≤ 512 → exec .crcaCalc s = .next { s with
      acca := (List.range s.dinlen.toNat).foldl (fun acc i => crcStep acc (s.bufByte .din i)) 0x6363
      err := 0 }) ∧
    (512 < s.dinlen.toNat → exec .crcaCalc s = .next { s with err := 2 })

/-- R123: `CRCB.CALC`. -/
def Obligations.CrcbCalcResult : Prop :=
  encode .crcbCalc = 0x22 ∧ ∀ s : State, s.busy = false →
    (s.dinlen.toNat ≤ 512 → exec .crcbCalc s = .next { s with
      accb := (List.range s.dinlen.toNat).foldl (fun acc i => crcStep acc (s.bufByte .din i)) 0xFFFF
      err := 0 }) ∧
    (512 < s.dinlen.toNat → exec .crcbCalc s = .next { s with err := 2 })

/-- R105: `CRCA.APPEND`: `DIN[0..DINLEN]` and then its CRC, low byte first, in `DOUT`; every other byte of memory as
before; a `DINLEN` above 510 is `InvalidArgument` and only `ERR` is written. -/
def Obligations.CrcaAppendResult : Prop :=
  encode .crcaAppend = 0x13 ∧ ∀ s : State, s.busy = false →
    (s.dinlen.toNat ≤ 510 →
      let data := s.bufBytes .din s.dinlen.toNat
      let acc := crcOf 0x6363 data
      ∃ t, exec .crcaAppend s = .next t ∧
        t = { s with acca := acc, err := 0, doutlen := s.dinlen + 2, mem := t.mem } ∧
        Stores .dout (data ++ [acc.extractLsb' 0 8, acc.extractLsb' 8 8]) s t) ∧
    (510 < s.dinlen.toNat → exec .crcaAppend s = .next { s with err := 2 })

/-- R124: `CRCB.APPEND`. -/
def Obligations.CrcbAppendResult : Prop :=
  encode .crcbAppend = 0x23 ∧ ∀ s : State, s.busy = false →
    (s.dinlen.toNat ≤ 510 →
      let data := s.bufBytes .din s.dinlen.toNat
      let acc := crcOf 0xFFFF data
      ∃ t, exec .crcbAppend s = .next t ∧
        t = { s with accb := acc, err := 0, doutlen := s.dinlen + 2, mem := t.mem } ∧
        Stores .dout (data ++ [acc.extractLsb' 0 8, acc.extractLsb' 8 8]) s t) ∧
    (510 < s.dinlen.toNat → exec .crcbAppend s = .next { s with err := 2 })

/-! ## CASC and ATS (spec/42_uid_cascade.md, spec/43_ats_locator.md) -/

/-- R140: `CASC.ENC`: the tags of a 7-byte and of a 10-byte UID, every other length copied; only `DOUTLEN`, `ERR` and
the bytes of `DOUT` below the new length change; a `DINLEN` above 512 is `InvalidArgument`. -/
def Obligations.CascEncResult : Prop :=
  encode .cascEnc = 0x30 ∧ ∀ s : State, s.busy = false →
    (s.dinlen.toNat ≤ 512 →
      let uid := s.bufBytes .din s.dinlen.toNat
      let out :=
        if s.dinlen = 7 then 0x88#8 :: uid
        else if s.dinlen = 10 then
          0x88#8 :: s.bufByte .din 0 :: s.bufByte .din 1 :: s.bufByte .din 2 :: 0x88#8 ::
            (List.range 7).map (fun i => s.bufByte .din (3 + i))
        else uid
      let n := if s.dinlen = 7 then 8 else if s.dinlen = 10 then 12 else s.dinlen
      ∃ t, exec .cascEnc s = .next t ∧ t = { s with err := 0, doutlen := n, mem := t.mem } ∧ Stores .dout out s t) ∧
    (512 < s.dinlen.toNat → exec .cascEnc s = .next { s with err := 2 })

/-- R142, R143: the encoder is idempotent, and taking the tags out of a 10-byte UID's result gives the UID back. -/
def Obligations.CascadeIdempotentAndReversible : Prop :=
  (∀ uid : List Byte, cascade (cascade uid) = cascade uid) ∧
  (∀ uid : List Byte, uid.length = 7 → (cascade uid).length = 8 ∧ (cascade uid)[0]? = some 0x88 ∧
    (cascade uid).drop 1 = uid) ∧
  ∀ uid : List Byte, uid.length = 10 → (cascade uid).length = 12 ∧ (cascade uid)[0]? = some 0x88 ∧
    (cascade uid)[4]? = some 0x88 ∧ ((cascade uid).eraseIdx 4).eraseIdx 0 = uid

/-- R150: `ATS.LOCHB`: the offset, the flag, the bytes at or after the offset; only `HBOFF`, `HBVALID`, `DOUTLEN`,
`ERR` and the bytes of `DOUT` below the new length change; a `DINLEN` above 512 is `InvalidArgument`. -/
def Obligations.AtsLochbResult : Prop :=
  encode .atsLochb = 0x31 ∧ ∀ s : State, s.busy = false →
    (s.dinlen = 0 → ∃ t, exec .atsLochb s = .next t ∧
      t = { s with status := t.status, hboff := 0, doutlen := 0, err := 0 } ∧
      t.hbvalid = false ∧ t.busy = s.busy ∧ t.isOpen = s.isOpen ∧ t.abtp = s.abtp) ∧
    (0 < s.dinlen.toNat → s.dinlen.toNat ≤ 512 →
      let n := s.dinlen.toNat
      let off := 1 + (if s.bufByte .din 0 &&& 0x10 ≠ 0 then 1 else 0) +
        (if 1 < n ∧ s.bufByte .din 1 &&& 0x20 ≠ 0 then 1 else 0) +
        (if 2 < n ∧ s.bufByte .din 2 &&& 0x40 ≠ 0 then 1 else 0)
      ∃ t, exec .atsLochb s = .next t ∧
        t = { s with
          status := t.status, hboff := BitVec.ofNat 16 off, doutlen := BitVec.ofNat 16 (n - off), err := 0,
          mem := t.mem } ∧
        (t.hbvalid = true ↔ off < n) ∧ t.busy = s.busy ∧ t.isOpen = s.isOpen ∧ t.abtp = s.abtp ∧
        Stores .dout ((List.range (n - off)).map (fun i => s.bufByte .din (off + i))) s t) ∧
    (512 < s.dinlen.toNat → exec .atsLochb s = .next { s with err := 2 })

/-- R152, R154: the cases by length, and that only the three indicator bits are looked at. -/
def Obligations.HistoricalBytesByLength : Prop :=
  (∀ ats : List Byte, ats.length = 0 → historicalOffset ats = 0 ∧ historicalBytes ats = none) ∧
  (∀ ats : List Byte, 0 < ats.length → 1 ≤ historicalOffset ats ∧ historicalOffset ats ≤ 4) ∧
  (∀ ats : List Byte, ats.length = 1 → historicalBytes ats = none) ∧
  (∀ a b : Byte, (historicalBytes [a, b]).isSome = true ↔ a &&& 0x10 = 0 ∧ b &&& 0x20 = 0) ∧
  (∀ ats : List Byte, ats.length = 3 → ((historicalBytes ats).isSome = true ↔ historicalOffset ats ≤ 2)) ∧
  (∀ ats : List Byte, 4 ≤ ats.length →
    ((historicalBytes ats).isSome = true ↔ historicalOffset ats < ats.length)) ∧
  (∀ ats hb : List Byte, historicalBytes ats = some hb → hb = ats.drop (historicalOffset ats) ∧ 1 ≤ hb.length) ∧
  ∀ a b c a' b' c' : Byte, ∀ rest rest' : List Byte, a &&& 0x10 = a' &&& 0x10 → b &&& 0x20 = b' &&& 0x20 →
    c &&& 0x40 = c' &&& 0x40 → historicalOffset (a :: b :: c :: rest) = historicalOffset (a' :: b' :: c' :: rest')

/-! ## Initiator-mode commands (spec/44_transceive_initiator.md) -/

/-- R174: `XCV.BYTES`: its local failures, its issue with the request the link receives, and its completion. -/
def Obligations.XcvBytesIssueAndCompletion : Prop :=
  encode .xcvBytes = 0x40 ∧ ∀ s : State,
    (s.busy = false → s.isOpen = false → exec .xcvBytes s = .next { s with err := 14 }) ∧
    (s.busy = false → s.isOpen = true →
      (512 < s.dinlen.toNat ∨ 512 < s.rxcap.toNat ∨ s.timeout.toInt < -1) →
      exec .xcvBytes s = .next { s with err := 2 }) ∧
    (s.busy = false → s.isOpen = true → s.dinlen.toNat ≤ 512 → s.rxcap.toNat ≤ 512 → -1 ≤ s.timeout.toInt →
      ∃ t, exec .xcvBytes s = .next t ∧ WentBusy 0x40
        { op := .command 0x40, data := s.bufBytes .din s.dinlen.toNat, par := [], nbits := 8 * s.dinlen.toNat,
          rxcap := s.rxcap.toNat, rxcapbits := 0, timeout := s.timeout.toInt, cycles := 0 } s t) ∧
    ∀ (rsp : LinkRsp) (rest : List Event), s.busy = true → s.pend = 0x40 → s.events = .link rsp :: rest →
      rsp.hasShape .bytes = true →
      step s = thenNext (recvBytes rsp { s with events := rest }) State.endPending

/-- R175: `XCV.BYTES.T`. -/
def Obligations.XcvBytesTIssueAndCompletion : Prop :=
  encode .xcvBytesT = 0x41 ∧ ∀ s : State,
    (s.busy = false → s.isOpen = false → exec .xcvBytesT s = .next { s with err := 14 }) ∧
    (s.busy = false → s.isOpen = true → (512 < s.dinlen.toNat ∨ 512 < s.rxcap.toNat) →
      exec .xcvBytesT s = .next { s with err := 2 }) ∧
    (s.busy = false → s.isOpen = true → s.dinlen.toNat ≤ 512 → s.rxcap.toNat ≤ 512 →
      ∃ t, exec .xcvBytesT s = .next t ∧ WentBusy 0x41
        { op := .command 0x41, data := s.bufBytes .din s.dinlen.toNat, par := [], nbits := 8 * s.dinlen.toNat,
          rxcap := s.rxcap.toNat, rxcapbits := 0, timeout := 0, cycles := s.cycles } s t) ∧
    ∀ (rsp : LinkRsp) (rest : List Event), s.busy = true → s.pend = 0x41 → s.events = .link rsp :: rest →
      rsp.hasShape .bytes = true →
      step s = thenNext (recvBytes rsp { s with events := rest })
        (fun t => State.endPending (if rsp.code = .success then { t with cycles := rsp.cycles } else t))

/-- R176: `XCV.BITS`: its local failures with `tx_pre` and `rx_pre` (R167, R168), its issue, its completion. -/
def Obligations.XcvBitsIssueAndCompletion : Prop :=
  encode .xcvBits = 0x42 ∧ ∀ s : State,
    (s.busy = false → s.isOpen = false → exec .xcvBits s = .next { s with err := 14 }) ∧
    (s.busy = false → s.isOpen = true →
      (512 < s.dinlen.toNat ∨ 512 < s.pinlen.toNat ∨ 512 < s.rxcap.toNat ∨ 512 < s.rxpcap.toNat ∨
        s.pinlen ≠ s.dinlen ∨ s.dinlen.toNat * 8 < s.txbits.toNat ∨ s.rxpcap ≠ s.rxcap ∨
        s.rxcap.toNat * 8 < s.rxcapbits.toNat) →
      exec .xcvBits s = .next { s with err := 2 }) ∧
    (s.busy = false → s.isOpen = true → s.dinlen.toNat ≤ 512 → s.pinlen = s.dinlen →
      s.txbits.toNat ≤ s.dinlen.toNat * 8 → s.rxcap.toNat ≤ 512 → s.rxpcap = s.rxcap →
      s.rxcapbits.toNat ≤ s.rxcap.toNat * 8 →
      ∃ t, exec .xcvBits s = .next t ∧ WentBusy 0x42
        { op := .command 0x42, data := s.bufBytes .din (ceil8 s.txbits.toNat),
          par := s.bufBytes .pin (ceil8 s.txbits.toNat), nbits := s.txbits.toNat, rxcap := s.rxcap.toNat,
          rxcapbits := s.rxcapbits.toNat, timeout := 0, cycles := 0 } s t) ∧
    ∀ (rsp : LinkRsp) (rest : List Event), s.busy = true → s.pend = 0x42 → s.events = .link rsp :: rest →
      rsp.hasShape .bits = true →
      step s = thenNext (recvBits rsp { s with events := rest }) State.endPending

/-- R177: `XCV.BITS.T`. -/
def Obligations.XcvBitsTIssueAndCompletion : Prop :=
  encode .xcvBitsT = 0x43 ∧ ∀ s : State,
    (s.busy = false → s.isOpen = false → exec .xcvBitsT s = .next { s with err := 14 }) ∧
    (s.busy = false → s.isOpen = true →
      (512 < s.dinlen.toNat ∨ 512 < s.pinlen.toNat ∨ 512 < s.rxcap.toNat ∨ 512 < s.rxpcap.toNat ∨
        s.pinlen ≠ s.dinlen ∨ s.dinlen.toNat * 8 < s.txbits.toNat ∨ s.rxpcap ≠ s.rxcap ∨
        s.rxcap.toNat * 8 < s.rxcapbits.toNat) →
      exec .xcvBitsT s = .next { s with err := 2 }) ∧
    (s.busy = false → s.isOpen = true → s.dinlen.toNat ≤ 512 → s.pinlen = s.dinlen →
      s.txbits.toNat ≤ s.dinlen.toNat * 8 → s.rxcap.toNat ≤ 512 → s.rxpcap = s.rxcap →
      s.rxcapbits.toNat ≤ s.rxcap.toNat * 8 →
      ∃ t, exec .xcvBitsT s = .next t ∧ WentBusy 0x43
        { op := .command 0x43, data := s.bufBytes .din (ceil8 s.txbits.toNat),
          par := s.bufBytes .pin (ceil8 s.txbits.toNat), nbits := s.txbits.toNat, rxcap := s.rxcap.toNat,
          rxcapbits := s.rxcapbits.toNat, timeout := 0, cycles := s.cycles } s t) ∧
    ∀ (rsp : LinkRsp) (rest : List Event), s.busy = true → s.pend = 0x43 → s.events = .link rsp :: rest →
      rsp.hasShape .bits = true →
      step s = thenNext (recvBits rsp { s with events := rest })
        (fun t => State.endPending (if rsp.code = .success then { t with cycles := rsp.cycles } else t))

/-! ## Target-mode commands (spec/45_transceive_target.md) -/

/-- R191: `TGT.INIT`. -/
def Obligations.TgtInitIssueAndCompletion : Prop :=
  encode .tgtInit = 0x50 ∧ ∀ s : State,
    (s.busy = false → s.isOpen = false → exec .tgtInit s = .next { s with err := 14 }) ∧
    (s.busy = false → s.isOpen = true → (512 < s.rxcap.toNat ∨ s.timeout.toInt < -1) →
      exec .tgtInit s = .next { s with err := 2 }) ∧
    (s.busy = false → s.isOpen = true → s.rxcap.toNat ≤ 512 → -1 ≤ s.timeout.toInt →
      ∃ t, exec .tgtInit s = .next t ∧ WentBusy 0x50
        { op := .command 0x50, data := [], par := [], nbits := 0, rxcap := s.rxcap.toNat, rxcapbits := 0,
          timeout := s.timeout.toInt, cycles := 0 } s t) ∧
    ∀ (rsp : LinkRsp) (rest : List Event), s.busy = true → s.pend = 0x50 → s.events = .link rsp :: rest →
      rsp.hasShape .bytes = true →
      step s = thenNext (recvBytes rsp { s with events := rest }) State.endPending

/-- R192: `TGT.SENDB`: it receives nothing, and its completion writes `ERR` and `STATUS` only. -/
def Obligations.TgtSendbIssueAndCompletion : Prop :=
  encode .tgtSendb = 0x51 ∧ ∀ s : State,
    (s.busy = false → s.isOpen = false → exec .tgtSendb s = .next { s with err := 14 }) ∧
    (s.busy = false → s.isOpen = true → (512 < s.dinlen.toNat ∨ s.timeout.toInt < -1) →
      exec .tgtSendb s = .next { s with err := 2 }) ∧
    (s.busy = false → s.isOpen = true → s.dinlen.toNat ≤ 512 → -1 ≤ s.timeout.toInt →
      ∃ t, exec .tgtSendb s = .next t ∧ WentBusy 0x51
        { op := .command 0x51, data := s.bufBytes .din s.dinlen.toNat, par := [], nbits := 8 * s.dinlen.toNat,
          rxcap := 0, rxcapbits := 0, timeout := s.timeout.toInt, cycles := 0 } s t) ∧
    ∀ (rsp : LinkRsp) (rest : List Event), s.busy = true → s.pend = 0x51 → s.events = .link rsp :: rest →
      rsp.hasShape .sendOnly = true →
      ∃ t, step s = .next t ∧ t = { s with status := t.status, events := rest, err := rsp.code.kind.code } ∧
        t.busy = false ∧ t.abtp = false ∧ t.isOpen = s.isOpen ∧ t.hbvalid = s.hbvalid

/-- R193: `TGT.RECVB`. -/
def Obligations.TgtRecvbIssueAndCompletion : Prop :=
  encode .tgtRecvb = 0x52 ∧ ∀ s : State,
    (s.busy = false → s.isOpen = false → exec .tgtRecvb s = .next { s with err := 14 }) ∧
    (s.busy = false → s.isOpen = true → (512 < s.rxcap.toNat ∨ s.timeout.toInt < -1) →
      exec .tgtRecvb s = .next { s with err := 2 }) ∧
    (s.busy = false → s.isOpen = true → s.rxcap.toNat ≤ 512 → -1 ≤ s.timeout.toInt →
      ∃ t, exec .tgtRecvb s = .next t ∧ WentBusy 0x52
        { op := .command 0x52, data := [], par := [], nbits := 0, rxcap := s.rxcap.toNat, rxcapbits := 0,
          timeout := s.timeout.toInt, cycles := 0 } s t) ∧
    ∀ (rsp : LinkRsp) (rest : List Event), s.busy = true → s.pend = 0x52 → s.events = .link rsp :: rest →
      rsp.hasShape .bytes = true →
      step s = thenNext (recvBytes rsp { s with events := rest }) State.endPending

/-- R194: `TGT.SENDBITS`. -/
def Obligations.TgtSendbitsIssueAndCompletion : Prop :=
  encode .tgtSendbits = 0x53 ∧ ∀ s : State,
    (s.busy = false → s.isOpen = false → exec .tgtSendbits s = .next { s with err := 14 }) ∧
    (s.busy = false → s.isOpen = true →
      (512 < s.dinlen.toNat ∨ 512 < s.pinlen.toNat ∨ s.pinlen ≠ s.dinlen ∨ s.dinlen.toNat * 8 < s.txbits.toNat) →
      exec .tgtSendbits s = .next { s with err := 2 }) ∧
    (s.busy = false → s.isOpen = true → s.dinlen.toNat ≤ 512 → s.pinlen = s.dinlen →
      s.txbits.toNat ≤ s.dinlen.toNat * 8 →
      ∃ t, exec .tgtSendbits s = .next t ∧ WentBusy 0x53
        { op := .command 0x53, data := s.bufBytes .din (ceil8 s.txbits.toNat),
          par := s.bufBytes .pin (ceil8 s.txbits.toNat), nbits := s.txbits.toNat, rxcap := 0, rxcapbits := 0,
          timeout := 0, cycles := 0 } s t) ∧
    ∀ (rsp : LinkRsp) (rest : List Event), s.busy = true → s.pend = 0x53 → s.events = .link rsp :: rest →
      rsp.hasShape .sendOnly = true →
      ∃ t, step s = .next t ∧ t = { s with status := t.status, events := rest, err := rsp.code.kind.code } ∧
        t.busy = false ∧ t.abtp = false ∧ t.isOpen = s.isOpen ∧ t.hbvalid = s.hbvalid

/-- R195: `TGT.RECVBITS`. -/
def Obligations.TgtRecvbitsIssueAndCompletion : Prop :=
  encode .tgtRecvbits = 0x54 ∧ ∀ s : State,
    (s.busy = false → s.isOpen = false → exec .tgtRecvbits s = .next { s with err := 14 }) ∧
    (s.busy = false → s.isOpen = true →
      (512 < s.rxcap.toNat ∨ 512 < s.rxpcap.toNat ∨ s.rxpcap ≠ s.rxcap ∨
        s.rxcap.toNat * 8 < s.rxcapbits.toNat) →
      exec .tgtRecvbits s = .next { s with err := 2 }) ∧
    (s.busy = false → s.isOpen = true → s.rxcap.toNat ≤ 512 → s.rxpcap = s.rxcap →
      s.rxcapbits.toNat ≤ s.rxcap.toNat * 8 →
      ∃ t, exec .tgtRecvbits s = .next t ∧ WentBusy 0x54
        { op := .command 0x54, data := [], par := [], nbits := 0, rxcap := s.rxcap.toNat,
          rxcapbits := s.rxcapbits.toNat, timeout := 0, cycles := 0 } s t) ∧
    ∀ (rsp : LinkRsp) (rest : List Event), s.busy = true → s.pend = 0x54 → s.events = .link rsp :: rest →
      rsp.hasShape .bits = true →
      step s = thenNext (recvBits rsp { s with events := rest }) State.endPending

/-! ## Completion (spec/44_transceive_initiator.md R162, R169 to R173; spec/60_exceptions.md R237) -/

/-- R169: `recv_bytes`: a failure, a response that fits, and a response longer than `RXCAP`, whose first `RXCAP`
bytes are delivered with `Overflow`. -/
def Obligations.RecvBytesDelivers : Prop :=
  ∀ (rsp : LinkRsp) (s : State),
    (rsp.code ≠ .success → recvBytes rsp s = .next { s with doutlen := 0, err := rsp.code.kind.code }) ∧
    (rsp.code = .success → s.rxcap.toNat ≤ 512 → rsp.data.length ≤ s.rxcap.toNat →
      ∃ t, recvBytes rsp s = .next t ∧
        t = { s with doutlen := BitVec.ofNat 16 rsp.data.length, err := 0, mem := t.mem } ∧
        Stores .dout rsp.data s t) ∧
    (rsp.code = .success → s.rxcap.toNat ≤ 512 → s.rxcap.toNat < rsp.data.length →
      ∃ t, recvBytes rsp s = .next t ∧ t = { s with doutlen := s.rxcap, err := 5, mem := t.mem } ∧
        Stores .dout (rsp.data.take s.rxcap.toNat) s t)

/-- R170: `recv_bits`: a failure, a response that fits, and a response of more than `RXCAPBITS` bits, whose first
`ceil8(RXCAPBITS)` bytes of data and parity are delivered with `Overflow`. -/
def Obligations.RecvBitsDelivers : Prop :=
  ∀ (rsp : LinkRsp) (s : State),
    (rsp.code ≠ .success →
      recvBits rsp s = .next { s with doutlen := 0, poutlen := 0, rxbits := 0, err := rsp.code.kind.code }) ∧
    (rsp.code = .success → rsp.hasShape .bits = true → s.rxcapbits.toNat ≤ 4096 →
      rsp.nbits ≤ s.rxcapbits.toNat →
      ∃ t, recvBits rsp s = .next t ∧
        t = { s with
          doutlen := BitVec.ofNat 16 (ceil8 rsp.nbits), poutlen := BitVec.ofNat 16 (ceil8 rsp.nbits),
          rxbits := BitVec.ofNat 16 rsp.nbits, err := 0, mem := t.mem } ∧
        StoresTwo .dout rsp.data .pout rsp.par s t) ∧
    (rsp.code = .success → rsp.hasShape .bits = true → s.rxcapbits.toNat ≤ 4096 →
      s.rxcapbits.toNat < rsp.nbits →
      let m := ceil8 s.rxcapbits.toNat
      ∃ t, recvBits rsp s = .next t ∧
        t = { s with
          doutlen := BitVec.ofNat 16 m, poutlen := BitVec.ofNat 16 m, rxbits := s.rxcapbits, err := 5,
          mem := t.mem } ∧
        m ≤ rsp.data.length ∧ StoresTwo .dout (rsp.data.take m) .pout (rsp.par.take m) s t)

/-- R162, R237: a failure the link reports completes every link command with the link's code unchanged, zeroes the
result lengths that command writes on success and nothing else, and sends no request; a failed `LNK.OPEN` writes
`ERR` only. -/
def Obligations.LinkFailurePassedThrough : Prop :=
  (∀ (s : State) (rsp : LinkRsp) (op : LinkOp), s.busy = true → s.pend = op.opcode → rsp.hasShape op.shape = true →
    rsp.code ≠ .success →
    ∃ t, complete rsp s = .next t ∧ t.err ≠ 0 ∧ t.busy = false ∧ t.abtp = false ∧ t.isOpen = s.isOpen ∧
      t.hbvalid = s.hbvalid ∧
      t = { s with
        status := t.status, err := rsp.code.kind.code,
        doutlen := if op.shape = .sendOnly then s.doutlen else 0,
        poutlen := if op.shape = .bits then 0 else s.poutlen,
        rxbits := if op.shape = .bits then 0 else s.rxbits }) ∧
  ∀ s : State, s.busy = false → s.isOpen = false → s.openCode ≠ .success →
    exec .lnkOpen s = .next { s with
      err := s.openCode.kind.code, toLink := s.toLink ++ [{ op := .command 0x60 }] }

/-- R173: a completion writes `CYCLES` exactly when a timed command was answered `Success`, overflow or not, with
the link's own count. -/
def Obligations.CyclesReturnedByTimedCommands : Prop :=
  ∀ (s : State) (rsp : LinkRsp) (op : LinkOp), s.busy = true → s.pend = op.opcode → rsp.hasShape op.shape = true →
    s.capacitiesFit op.shape →
    ∃ t, complete rsp s = .next t ∧ t.busy = false ∧
      t.cycles = if (op = .xcvBytesT ∨ op = .xcvBitsT) ∧ rsp.code = .success then rsp.cycles else s.cycles

/-- A response whose shape is not the pending command's is refused, and one that comes with nothing pending is
dropped (R161, R261; the refusal is the model's form of the port's typing, log 9; for dropping, log 10). -/
def Obligations.UndeliverableResponses : Prop :=
  ∀ (s : State) (rsp : LinkRsp) (rest : List Event), s.events = .link rsp :: rest →
    (s.busy = false → step s = .next { s with events := rest }) ∧
    ∀ op : LinkOp, s.busy = true → s.pend = op.opcode → rsp.hasShape op.shape = false →
      step s = .refused .illShapedResponse

/-! ## Session and abort (spec/46_link_session_abort.md) -/

/-- R211: `LNK.OPEN`: already open, answered with `Success`, answered with a failure. -/
def Obligations.LnkOpenResult : Prop :=
  encode .lnkOpen = 0x60 ∧ ∀ s : State, s.busy = false →
    (s.isOpen = true → exec .lnkOpen s = .next { s with err := 2 }) ∧
    (s.isOpen = false → s.openCode = .success → ∃ t, exec .lnkOpen s = .next t ∧ t.isOpen = true ∧
      t.busy = s.busy ∧ t.hbvalid = s.hbvalid ∧ t.abtp = s.abtp ∧
      t = { s with status := t.status, err := 0, toLink := s.toLink ++ [{ op := .command 0x60 }] }) ∧
    (s.isOpen = false → s.openCode ≠ .success → exec .lnkOpen s = .next { s with
      err := s.openCode.kind.code, toLink := s.toLink ++ [{ op := .command 0x60 }] })

/-- R212: `LNK.CLOSE` always completes with `Success`; the close request reaches the link only when a session is
open, and a second close sends none. -/
def Obligations.LnkCloseResult : Prop :=
  encode .lnkClose = 0x61 ∧ ∀ s : State, s.busy = false →
    (s.isOpen = false → exec .lnkClose s = .next { s with err := 0 }) ∧
    (s.isOpen = true → ∃ t, exec .lnkClose s = .next t ∧ t.isOpen = false ∧ t.busy = s.busy ∧
      t.hbvalid = s.hbvalid ∧ t.abtp = s.abtp ∧
      t = { s with status := t.status, err := 0, toLink := s.toLink ++ [{ op := .command 0x61 }] } ∧
      exec .lnkClose t = .next t)

/-- R214: `ABORT` with bit 0 set: while a command is pending it sets `ABTP` and forwards the request, and changes
nothing else; with nothing pending it does nothing. With bit 0 clear the write does nothing. The host and the abort
requester write it alike. -/
def Obligations.AbortForwardsWhilePending : Prop :=
  (∀ s : State, s.busy = true → ∃ t, exec .abort s = .next t ∧ t.abtp = true ∧ t.busy = true ∧
    t.isOpen = s.isOpen ∧ t.hbvalid = s.hbvalid ∧
    t = { s with status := t.status, toLink := s.toLink ++ [{ op := .abort }] }) ∧
  (∀ s : State, s.busy = false → exec .abort s = .next s) ∧
  (∀ (s : State) (v : Word) (rest : List Event), s.events = .abortWrite v :: rest →
    step s = if v.getLsbD 0 then exec .abort { s with events := rest } else .next { s with events := rest }) ∧
  ∀ (s : State) (v : Word) (c : LinkCode) (rest : List Event), s.events = .host (.regWrite 3 v) c :: rest →
    step s = if v.getLsbD 0 then exec .abort { s with events := rest, openCode := c }
      else .next { s with events := rest, openCode := c }

/-- R215: the pending command's ordinary completion rule handles the response after an abort as it would without
one: the outcome differs only in the abort request the link received. -/
def Obligations.AbortDoesNotChangeCompletion : Prop :=
  ∀ (s : State) (rsp : LinkRsp), s.busy = true → ∃ t, exec .abort s = .next t ∧
    complete rsp t =
      thenNext (complete rsp s) (fun u => { u with toLink := s.toLink ++ [{ op := .abort }] })

/-- R213: with `OPEN = 0` every link command raises `DeviceClosed` without a request; the CRC, cascade and ATS
commands never test `OPEN`; the session commands never raise `DeviceClosed`; a fresh block is closed. -/
def Obligations.DeviceClosedExactlyForLinkCommands : Prop :=
  (∀ (op : LinkOp) (s : State), s.busy = false → s.isOpen = false →
    exec (linkCommand op) s = .next { s with err := 14 }) ∧
  (∀ (i : Instr) (s : State) (b : Bool), isCompute i = true →
    exec i (s.setOpen b) = thenNext (exec i s) (State.setOpen b)) ∧
  (∀ s : State, s.busy = false → (∃ t, exec .lnkOpen s = .next t ∧ t.err ≠ 14) ∧
    ∃ t, exec .lnkClose s = .next t ∧ t.err = 0) ∧
  ∀ op : LinkOp, exec (linkCommand op) State.reset = .next { State.reset with err := 14 }

/-! ## Rules over all commands -/

/-- R210: `OPEN` is changed by `LNK.OPEN`, `LNK.CLOSE` and reset alone: no other command, no abort, no link response
and no other transaction changes it. -/
def Obligations.OpenChangesOnlyBySession : Prop :=
  (∀ (i : Instr) (s t : State), i ≠ .lnkOpen → i ≠ .lnkClose → exec i s = .next t → t.isOpen = s.isOpen) ∧
  ∀ (s t : State) (e : Event) (rest : List Event), s.events = e :: rest → step s = .next t →
    t.isOpen ≠ s.isOpen →
    e = .reset ∨ ∃ c, e = .host (.regWrite 0 0x60) c ∨ e = .host (.regWrite 0 0x61) c

/-- "No command writes `DIN` or `PIN`" (R43): no command, abort or completion changes a byte of the input buffers. -/
def Obligations.CommandsNeverWriteInputBuffers : Prop :=
  ∀ s t : State, CommandStep s t → ∀ a, 0x200 ≤ a → a < 0x600 → t.byteOf a = s.byteOf a

/-- Bytes of `DOUT` and `POUT` at and above the new length keep their old values (R66, R269). -/
def Obligations.BytesAboveLengthKept : Prop :=
  ∀ s t : State, CommandStep s t → ∀ i, i < 512 →
    (t.doutlen.toNat ≤ i → t.bufByte .dout i = s.bufByte .dout i) ∧
    (t.poutlen.toNat ≤ i → t.bufByte .pout i = s.bufByte .pout i)

/-- Which registers commands write (R22, R29, R30, R33, R35 to R38, R40): operand registers never; `ACCA` and `ACCB`
by their own four commands; `HBOFF` and `HBVALID` by `ATS.LOCHB`; `POUTLEN`, `RXBITS` and `CYCLES` by completions. -/
def Obligations.RegistersWrittenOnlyByTheirCommands : Prop :=
  (∀ s t : State, CommandStep s t →
    t.dinlen = s.dinlen ∧ t.pinlen = s.pinlen ∧ t.txbits = s.txbits ∧ t.rxcap = s.rxcap ∧ t.rxpcap = s.rxpcap ∧
    t.rxcapbits = s.rxcapbits ∧ t.timeout = s.timeout) ∧
  (∀ (i : Instr) (s t : State), exec i s = .next t →
    (isCrca i = false → t.acca = s.acca) ∧ (isCrcb i = false → t.accb = s.accb) ∧
    (i ≠ .atsLochb → t.hboff = s.hboff ∧ t.hbvalid = s.hbvalid) ∧
    t.poutlen = s.poutlen ∧ t.rxbits = s.rxbits ∧ t.cycles = s.cycles) ∧
  ∀ (rsp : LinkRsp) (s t : State), complete rsp s = .next t →
    t.acca = s.acca ∧ t.accb = s.accb ∧ t.hboff = s.hboff ∧ t.hbvalid = s.hbvalid

/-- R263: every command but the nine link commands completes inside the write that issues it, with `BUSY` never set;
the same is true of a link command whose local checks fail. A command that leaves `BUSY = 1` is a link command whose
checks passed, and it keeps `ERR` and every result register. -/
def Obligations.OnlyLinkCommandsGoBusy : Prop :=
  ∀ (i : Instr) (s t : State), s.busy = false → exec i s = .next t → t.busy = true →
    ∃ op : LinkOp, i = linkCommand op ∧ s.isOpen = true ∧ t.pend = op.opcode ∧ t.err = s.err ∧
      t.doutlen = s.doutlen ∧ t.poutlen = s.poutlen ∧ t.rxbits = s.rxbits ∧ t.mem = s.mem

/-- R160: whatever command runs, the link receives at most one request, within the bounds of the request record. -/
def Obligations.RequestsKeepTheirBounds : Prop :=
  ∀ (i : Instr) (s t : State), exec i s = .next t →
    t.toLink = s.toLink ∨ ∃ q : LinkReq, q.wellFormed = true ∧ t.toLink = s.toLink ++ [q]
end

