-- ==== Sys2Proof/Laws/Crc.lean ====
section
/-! SUPPORT. The algebra of the CRC step: how it splits over the accumulator's two bytes, and that it is linear. -/

namespace Sys2Proof.Machine

/-- The step depends on `c[7:0]` and `b` through their XOR alone (law 3 of R107). -/
theorem crcStep_split (c : Half) (b : Byte) :
    crcStep c b = (c >>> 8) ^^^ crcStep 0 (b ^^^ c.setWidth 8) := by
  simp [crcStep, BitVec.xor_assoc]

theorem crcStep_zero_xor (x y : Byte) : crcStep 0 (x ^^^ y) = crcStep 0 x ^^^ crcStep 0 y := by
  simp only [crcStep, BitVec.shiftLeft_xor_distrib, BitVec.setWidth_xor, BitVec.ushiftRight_xor_distrib]
  simp
  ac_rfl

/-- The upper byte of the table entry of a byte determines the byte. -/
theorem eq_zero_of_crcStep_high (x : Byte) (h : (crcStep 0 x).extractLsb' 8 8 = 0) : x = 0 := by
  revert x; decide +kernel

@[simp] theorem crcOf_nil (seed : Half) : crcOf seed [] = seed := rfl

@[simp] theorem crcOf_cons (seed : Half) (b : Byte) (bs : List Byte) :
    crcOf seed (b :: bs) = crcOf (crcStep seed b) bs := rfl

@[simp] theorem crcOf_append (seed : Half) (p q : List Byte) : crcOf seed (p ++ q) = crcOf (crcOf seed p) q := by
  simp [crcOf]

/-- The bytes an append writes after the data: low byte first, nothing XORed (R67, R106). -/
theorem crcAppended_eq (seed : Half) (v : List Byte) :
    crcAppended seed 0 v = v ++ [(crcOf seed v).extractLsb' 0 8, (crcOf seed v).extractLsb' 8 8] := by
  simp [crcAppended, crcBytes]

/-- A round of the bit-serial form is linear. -/
theorem serialRound_xor (x y : Half) : serialRound (x ^^^ y) = serialRound x ^^^ serialRound y := by
  unfold serialRound
  rw [BitVec.getLsbD_xor, BitVec.ushiftRight_xor_distrib]
  have cancel : ∀ a b p : Half, a ^^^ b = (a ^^^ p) ^^^ (b ^^^ p) := by
    intro a b p
    rw [BitVec.xor_assoc, ← BitVec.xor_assoc p, BitVec.xor_comm p b, BitVec.xor_assoc b]; simp
  cases x.getLsbD 0 <;> cases y.getLsbD 0 <;> simp
  · ac_rfl
  · ac_rfl
  · exact cancel _ _ _

end Sys2Proof.Machine
end

