-- ==== Sys2Proof/Laws/Decode.lean ====
section
/-! SUPPORT. The fields of command words, and what a row of the opcode map selects. -/

namespace Sys2Proof

/-- A word a format I row selects is the word of its opcode and its own immediate. -/
theorem wordI_of_selects {w : Word} {op : Byte} (h : w &&& 0xFFFF00FF#32 = op.setWidth 32) :
    wordI op (imm8Of w) = w := by
  apply BitVec.eq_of_getLsbD_eq
  intro k hk
  have hk' := congrArg (fun x : Word => x.getLsbD k) h
  interval_cases k <;> simp [wordI, imm8Of] at hk' ⊢ <;> simp_all

theorem imm8Of_wordI (op b : Byte) : imm8Of (wordI op b) = b := by
  apply BitVec.eq_of_getLsbD_eq
  intro k hk
  interval_cases k <;> simp [wordI, imm8Of]

theorem opOf_wordI (op b : Byte) : opOf (wordI op b) = op := by
  apply BitVec.eq_of_getLsbD_eq
  intro k hk
  interval_cases k <;> simp [wordI, opOf]

theorem wordI_and_mask (op b : Byte) : wordI op b &&& 0xFFFF00FF#32 = op.setWidth 32 := by
  apply BitVec.eq_of_getLsbD_eq
  intro k hk
  interval_cases k <;> simp [wordI]

/-- A format N row selects its pattern alone (R81). -/
theorem selects_formatN {m : String} {op : Byte} {i : Instr} {w : Word} :
    (formatN m op i).selects w = true ↔ w = op.setWidth 32 := by
  have : w &&& 0xFFFFFFFF#32 = w := BitVec.and_allOnes
  simp [Row.selects, formatN, this]

/-- A format I row selects the words of its opcode, one for each immediate (R82). -/
theorem selects_formatI {m : String} {op : Byte} {f : Byte → Instr} {w : Word} :
    (formatI m op f).selects w = true ↔ ∃ b, w = wordI op b := by
  simp only [Row.selects, formatI, beq_iff_eq]
  constructor
  · intro h; exact ⟨_, (wordI_of_selects h).symm⟩
  · rintro ⟨b, rfl⟩; exact wordI_and_mask op b

/-- The opcode of a word a row selects. -/
theorem opOf_setWidth (op : Byte) : opOf (op.setWidth 32) = op := by
  apply BitVec.eq_of_getLsbD_eq
  intro k hk
  interval_cases k <;> simp [opOf]

/-- Every row of the map is of format N or of format I. -/
theorem opcodeMap_formats {r : Row} (h : r ∈ opcodeMap) :
    (∃ m op i, r = formatN m op i ∧ encode i = op.setWidth 32 ∧ portOf i = .cmd) ∨
      ∃ m op f, r = formatI m op f ∧ (op = 0x11 ∨ op = 0x21) ∧ ∀ b, encode (f b) = wordI op b ∧ portOf (f b) = .cmd := by
  simp only [opcodeMap, List.mem_cons, List.not_mem_nil, or_false] at h
  rcases h with h | h | h | h | h | h | h | h | h | h | h | h | h | h | h | h | h | h | h | h | h <;> first
    | exact .inr ⟨_, _, _, h, by decide, fun _ => ⟨rfl, rfl⟩⟩
    | exact .inl ⟨_, _, _, h, rfl, rfl⟩

/-- A row selects only words with its own opcode. -/
theorem pattern_of_selects {r : Row} {w : Word} (h : r ∈ opcodeMap) (hs : r.selects w = true) :
    r.pattern = (opOf w).setWidth 32 := by
  rcases opcodeMap_formats h with ⟨m, op, i, rfl, -, -⟩ | ⟨m, op, f, rfl, -, -⟩
  · rw [selects_formatN] at hs; subst hs; rw [opOf_setWidth]; rfl
  · rw [selects_formatI] at hs; obtain ⟨b, rfl⟩ := hs; rw [opOf_wordI]; rfl

/-- What the decoder reads is built by a row of the map that selects the word. -/
theorem row_of_decodeCmd {w : Word} {i : Instr} (h : decodeCmd w = .instr i) :
    ∃ r ∈ opcodeMap, r.selects w = true ∧ r.build (imm8Of w) = i := by
  unfold decodeCmd at h
  split at h
  · rename_i r hr
    cases h
    exact ⟨r, List.mem_of_find?_eq_some hr, by simpa using List.find?_some hr, rfl⟩
  · cases h

/-- The decoder refuses exactly the words no row selects. -/
theorem decodeCmd_rejected {w : Word} :
    (∃ r, decodeCmd w = .rejected r) ↔ ∀ r ∈ opcodeMap, r.selects w = false := by
  unfold decodeCmd
  cases h : opcodeMap.find? (fun r => r.selects w) with
  | some r =>
    simp only [reduceCtorEq, exists_false, false_iff, not_forall]
    exact ⟨r, List.mem_of_find?_eq_some h, by simpa using List.find?_some h⟩
  | none =>
    simp only [List.find?_eq_none] at h
    simpa using h

end Sys2Proof
end

