-- ==== Sys2Proof/Laws/State.lean ====
section
/-! SUPPORT. One lemma per field per update of State, each true by `rfl`; the fields of `STATUS` after each update
of it. -/

namespace Sys2Proof.Machine

variable (s : State)

/-! ### `State.setBusy` -/

@[simp] theorem State.setBusy_status (x : Bool) : (s.setBusy x).status = putBit s.status 0 x := rfl
@[simp] theorem State.setBusy_err (x : Bool) : (s.setBusy x).err = s.err := rfl
@[simp] theorem State.setBusy_acca (x : Bool) : (s.setBusy x).acca = s.acca := rfl
@[simp] theorem State.setBusy_accb (x : Bool) : (s.setBusy x).accb = s.accb := rfl
@[simp] theorem State.setBusy_dinlen (x : Bool) : (s.setBusy x).dinlen = s.dinlen := rfl
@[simp] theorem State.setBusy_pinlen (x : Bool) : (s.setBusy x).pinlen = s.pinlen := rfl
@[simp] theorem State.setBusy_doutlen (x : Bool) : (s.setBusy x).doutlen = s.doutlen := rfl
@[simp] theorem State.setBusy_poutlen (x : Bool) : (s.setBusy x).poutlen = s.poutlen := rfl
@[simp] theorem State.setBusy_txbits (x : Bool) : (s.setBusy x).txbits = s.txbits := rfl
@[simp] theorem State.setBusy_rxbits (x : Bool) : (s.setBusy x).rxbits = s.rxbits := rfl
@[simp] theorem State.setBusy_rxcap (x : Bool) : (s.setBusy x).rxcap = s.rxcap := rfl
@[simp] theorem State.setBusy_rxpcap (x : Bool) : (s.setBusy x).rxpcap = s.rxpcap := rfl
@[simp] theorem State.setBusy_rxcapbits (x : Bool) : (s.setBusy x).rxcapbits = s.rxcapbits := rfl
@[simp] theorem State.setBusy_timeout (x : Bool) : (s.setBusy x).timeout = s.timeout := rfl
@[simp] theorem State.setBusy_cycles (x : Bool) : (s.setBusy x).cycles = s.cycles := rfl
@[simp] theorem State.setBusy_hboff (x : Bool) : (s.setBusy x).hboff = s.hboff := rfl
@[simp] theorem State.setBusy_pend (x : Bool) : (s.setBusy x).pend = s.pend := rfl
@[simp] theorem State.setBusy_mem (x : Bool) : (s.setBusy x).mem = s.mem := rfl
@[simp] theorem State.setBusy_openCode (x : Bool) : (s.setBusy x).openCode = s.openCode := rfl
@[simp] theorem State.setBusy_toLink (x : Bool) : (s.setBusy x).toLink = s.toLink := rfl
@[simp] theorem State.setBusy_toHost (x : Bool) : (s.setBusy x).toHost = s.toHost := rfl
@[simp] theorem State.setBusy_events (x : Bool) : (s.setBusy x).events = s.events := rfl
@[simp] theorem State.setBusy_resets (x : Bool) : (s.setBusy x).resets = s.resets := rfl

/-! ### `State.setOpen` -/

@[simp] theorem State.setOpen_status (x : Bool) : (s.setOpen x).status = putBit s.status 1 x := rfl
@[simp] theorem State.setOpen_err (x : Bool) : (s.setOpen x).err = s.err := rfl
@[simp] theorem State.setOpen_acca (x : Bool) : (s.setOpen x).acca = s.acca := rfl
@[simp] theorem State.setOpen_accb (x : Bool) : (s.setOpen x).accb = s.accb := rfl
@[simp] theorem State.setOpen_dinlen (x : Bool) : (s.setOpen x).dinlen = s.dinlen := rfl
@[simp] theorem State.setOpen_pinlen (x : Bool) : (s.setOpen x).pinlen = s.pinlen := rfl
@[simp] theorem State.setOpen_doutlen (x : Bool) : (s.setOpen x).doutlen = s.doutlen := rfl
@[simp] theorem State.setOpen_poutlen (x : Bool) : (s.setOpen x).poutlen = s.poutlen := rfl
@[simp] theorem State.setOpen_txbits (x : Bool) : (s.setOpen x).txbits = s.txbits := rfl
@[simp] theorem State.setOpen_rxbits (x : Bool) : (s.setOpen x).rxbits = s.rxbits := rfl
@[simp] theorem State.setOpen_rxcap (x : Bool) : (s.setOpen x).rxcap = s.rxcap := rfl
@[simp] theorem State.setOpen_rxpcap (x : Bool) : (s.setOpen x).rxpcap = s.rxpcap := rfl
@[simp] theorem State.setOpen_rxcapbits (x : Bool) : (s.setOpen x).rxcapbits = s.rxcapbits := rfl
@[simp] theorem State.setOpen_timeout (x : Bool) : (s.setOpen x).timeout = s.timeout := rfl
@[simp] theorem State.setOpen_cycles (x : Bool) : (s.setOpen x).cycles = s.cycles := rfl
@[simp] theorem State.setOpen_hboff (x : Bool) : (s.setOpen x).hboff = s.hboff := rfl
@[simp] theorem State.setOpen_pend (x : Bool) : (s.setOpen x).pend = s.pend := rfl
@[simp] theorem State.setOpen_mem (x : Bool) : (s.setOpen x).mem = s.mem := rfl
@[simp] theorem State.setOpen_openCode (x : Bool) : (s.setOpen x).openCode = s.openCode := rfl
@[simp] theorem State.setOpen_toLink (x : Bool) : (s.setOpen x).toLink = s.toLink := rfl
@[simp] theorem State.setOpen_toHost (x : Bool) : (s.setOpen x).toHost = s.toHost := rfl
@[simp] theorem State.setOpen_events (x : Bool) : (s.setOpen x).events = s.events := rfl
@[simp] theorem State.setOpen_resets (x : Bool) : (s.setOpen x).resets = s.resets := rfl

/-! ### `State.setHbvalid` -/

@[simp] theorem State.setHbvalid_status (x : Bool) : (s.setHbvalid x).status = putBit s.status 2 x := rfl
@[simp] theorem State.setHbvalid_err (x : Bool) : (s.setHbvalid x).err = s.err := rfl
@[simp] theorem State.setHbvalid_acca (x : Bool) : (s.setHbvalid x).acca = s.acca := rfl
@[simp] theorem State.setHbvalid_accb (x : Bool) : (s.setHbvalid x).accb = s.accb := rfl
@[simp] theorem State.setHbvalid_dinlen (x : Bool) : (s.setHbvalid x).dinlen = s.dinlen := rfl
@[simp] theorem State.setHbvalid_pinlen (x : Bool) : (s.setHbvalid x).pinlen = s.pinlen := rfl
@[simp] theorem State.setHbvalid_doutlen (x : Bool) : (s.setHbvalid x).doutlen = s.doutlen := rfl
@[simp] theorem State.setHbvalid_poutlen (x : Bool) : (s.setHbvalid x).poutlen = s.poutlen := rfl
@[simp] theorem State.setHbvalid_txbits (x : Bool) : (s.setHbvalid x).txbits = s.txbits := rfl
@[simp] theorem State.setHbvalid_rxbits (x : Bool) : (s.setHbvalid x).rxbits = s.rxbits := rfl
@[simp] theorem State.setHbvalid_rxcap (x : Bool) : (s.setHbvalid x).rxcap = s.rxcap := rfl
@[simp] theorem State.setHbvalid_rxpcap (x : Bool) : (s.setHbvalid x).rxpcap = s.rxpcap := rfl
@[simp] theorem State.setHbvalid_rxcapbits (x : Bool) : (s.setHbvalid x).rxcapbits = s.rxcapbits := rfl
@[simp] theorem State.setHbvalid_timeout (x : Bool) : (s.setHbvalid x).timeout = s.timeout := rfl
@[simp] theorem State.setHbvalid_cycles (x : Bool) : (s.setHbvalid x).cycles = s.cycles := rfl
@[simp] theorem State.setHbvalid_hboff (x : Bool) : (s.setHbvalid x).hboff = s.hboff := rfl
@[simp] theorem State.setHbvalid_pend (x : Bool) : (s.setHbvalid x).pend = s.pend := rfl
@[simp] theorem State.setHbvalid_mem (x : Bool) : (s.setHbvalid x).mem = s.mem := rfl
@[simp] theorem State.setHbvalid_openCode (x : Bool) : (s.setHbvalid x).openCode = s.openCode := rfl
@[simp] theorem State.setHbvalid_toLink (x : Bool) : (s.setHbvalid x).toLink = s.toLink := rfl
@[simp] theorem State.setHbvalid_toHost (x : Bool) : (s.setHbvalid x).toHost = s.toHost := rfl
@[simp] theorem State.setHbvalid_events (x : Bool) : (s.setHbvalid x).events = s.events := rfl
@[simp] theorem State.setHbvalid_resets (x : Bool) : (s.setHbvalid x).resets = s.resets := rfl

/-! ### `State.setAbtp` -/

@[simp] theorem State.setAbtp_status (x : Bool) : (s.setAbtp x).status = putBit s.status 3 x := rfl
@[simp] theorem State.setAbtp_err (x : Bool) : (s.setAbtp x).err = s.err := rfl
@[simp] theorem State.setAbtp_acca (x : Bool) : (s.setAbtp x).acca = s.acca := rfl
@[simp] theorem State.setAbtp_accb (x : Bool) : (s.setAbtp x).accb = s.accb := rfl
@[simp] theorem State.setAbtp_dinlen (x : Bool) : (s.setAbtp x).dinlen = s.dinlen := rfl
@[simp] theorem State.setAbtp_pinlen (x : Bool) : (s.setAbtp x).pinlen = s.pinlen := rfl
@[simp] theorem State.setAbtp_doutlen (x : Bool) : (s.setAbtp x).doutlen = s.doutlen := rfl
@[simp] theorem State.setAbtp_poutlen (x : Bool) : (s.setAbtp x).poutlen = s.poutlen := rfl
@[simp] theorem State.setAbtp_txbits (x : Bool) : (s.setAbtp x).txbits = s.txbits := rfl
@[simp] theorem State.setAbtp_rxbits (x : Bool) : (s.setAbtp x).rxbits = s.rxbits := rfl
@[simp] theorem State.setAbtp_rxcap (x : Bool) : (s.setAbtp x).rxcap = s.rxcap := rfl
@[simp] theorem State.setAbtp_rxpcap (x : Bool) : (s.setAbtp x).rxpcap = s.rxpcap := rfl
@[simp] theorem State.setAbtp_rxcapbits (x : Bool) : (s.setAbtp x).rxcapbits = s.rxcapbits := rfl
@[simp] theorem State.setAbtp_timeout (x : Bool) : (s.setAbtp x).timeout = s.timeout := rfl
@[simp] theorem State.setAbtp_cycles (x : Bool) : (s.setAbtp x).cycles = s.cycles := rfl
@[simp] theorem State.setAbtp_hboff (x : Bool) : (s.setAbtp x).hboff = s.hboff := rfl
@[simp] theorem State.setAbtp_pend (x : Bool) : (s.setAbtp x).pend = s.pend := rfl
@[simp] theorem State.setAbtp_mem (x : Bool) : (s.setAbtp x).mem = s.mem := rfl
@[simp] theorem State.setAbtp_openCode (x : Bool) : (s.setAbtp x).openCode = s.openCode := rfl
@[simp] theorem State.setAbtp_toLink (x : Bool) : (s.setAbtp x).toLink = s.toLink := rfl
@[simp] theorem State.setAbtp_toHost (x : Bool) : (s.setAbtp x).toHost = s.toHost := rfl
@[simp] theorem State.setAbtp_events (x : Bool) : (s.setAbtp x).events = s.events := rfl
@[simp] theorem State.setAbtp_resets (x : Bool) : (s.setAbtp x).resets = s.resets := rfl

/-! ### `State.writeBuf` -/

@[simp] theorem State.writeBuf_status (b : Buf) (v : List Byte) : (s.writeBuf b v).status = s.status := rfl
@[simp] theorem State.writeBuf_err (b : Buf) (v : List Byte) : (s.writeBuf b v).err = s.err := rfl
@[simp] theorem State.writeBuf_acca (b : Buf) (v : List Byte) : (s.writeBuf b v).acca = s.acca := rfl
@[simp] theorem State.writeBuf_accb (b : Buf) (v : List Byte) : (s.writeBuf b v).accb = s.accb := rfl
@[simp] theorem State.writeBuf_dinlen (b : Buf) (v : List Byte) : (s.writeBuf b v).dinlen = s.dinlen := rfl
@[simp] theorem State.writeBuf_pinlen (b : Buf) (v : List Byte) : (s.writeBuf b v).pinlen = s.pinlen := rfl
@[simp] theorem State.writeBuf_doutlen (b : Buf) (v : List Byte) : (s.writeBuf b v).doutlen = s.doutlen := rfl
@[simp] theorem State.writeBuf_poutlen (b : Buf) (v : List Byte) : (s.writeBuf b v).poutlen = s.poutlen := rfl
@[simp] theorem State.writeBuf_txbits (b : Buf) (v : List Byte) : (s.writeBuf b v).txbits = s.txbits := rfl
@[simp] theorem State.writeBuf_rxbits (b : Buf) (v : List Byte) : (s.writeBuf b v).rxbits = s.rxbits := rfl
@[simp] theorem State.writeBuf_rxcap (b : Buf) (v : List Byte) : (s.writeBuf b v).rxcap = s.rxcap := rfl
@[simp] theorem State.writeBuf_rxpcap (b : Buf) (v : List Byte) : (s.writeBuf b v).rxpcap = s.rxpcap := rfl
@[simp] theorem State.writeBuf_rxcapbits (b : Buf) (v : List Byte) : (s.writeBuf b v).rxcapbits = s.rxcapbits := rfl
@[simp] theorem State.writeBuf_timeout (b : Buf) (v : List Byte) : (s.writeBuf b v).timeout = s.timeout := rfl
@[simp] theorem State.writeBuf_cycles (b : Buf) (v : List Byte) : (s.writeBuf b v).cycles = s.cycles := rfl
@[simp] theorem State.writeBuf_hboff (b : Buf) (v : List Byte) : (s.writeBuf b v).hboff = s.hboff := rfl
@[simp] theorem State.writeBuf_pend (b : Buf) (v : List Byte) : (s.writeBuf b v).pend = s.pend := rfl
@[simp] theorem State.writeBuf_mem (b : Buf) (v : List Byte) : (s.writeBuf b v).mem = s.mem.writeAll b.base v := rfl
@[simp] theorem State.writeBuf_openCode (b : Buf) (v : List Byte) : (s.writeBuf b v).openCode = s.openCode := rfl
@[simp] theorem State.writeBuf_toLink (b : Buf) (v : List Byte) : (s.writeBuf b v).toLink = s.toLink := rfl
@[simp] theorem State.writeBuf_toHost (b : Buf) (v : List Byte) : (s.writeBuf b v).toHost = s.toHost := rfl
@[simp] theorem State.writeBuf_events (b : Buf) (v : List Byte) : (s.writeBuf b v).events = s.events := rfl
@[simp] theorem State.writeBuf_resets (b : Buf) (v : List Byte) : (s.writeBuf b v).resets = s.resets := rfl

/-! ### `State.writeByte` -/

@[simp] theorem State.writeByte_status (b : Buf) (i : Nat) (v : Byte) : (s.writeByte b i v).status = s.status := rfl
@[simp] theorem State.writeByte_err (b : Buf) (i : Nat) (v : Byte) : (s.writeByte b i v).err = s.err := rfl
@[simp] theorem State.writeByte_acca (b : Buf) (i : Nat) (v : Byte) : (s.writeByte b i v).acca = s.acca := rfl
@[simp] theorem State.writeByte_accb (b : Buf) (i : Nat) (v : Byte) : (s.writeByte b i v).accb = s.accb := rfl
@[simp] theorem State.writeByte_dinlen (b : Buf) (i : Nat) (v : Byte) : (s.writeByte b i v).dinlen = s.dinlen := rfl
@[simp] theorem State.writeByte_pinlen (b : Buf) (i : Nat) (v : Byte) : (s.writeByte b i v).pinlen = s.pinlen := rfl
@[simp] theorem State.writeByte_doutlen (b : Buf) (i : Nat) (v : Byte) : (s.writeByte b i v).doutlen = s.doutlen := rfl
@[simp] theorem State.writeByte_poutlen (b : Buf) (i : Nat) (v : Byte) : (s.writeByte b i v).poutlen = s.poutlen := rfl
@[simp] theorem State.writeByte_txbits (b : Buf) (i : Nat) (v : Byte) : (s.writeByte b i v).txbits = s.txbits := rfl
@[simp] theorem State.writeByte_rxbits (b : Buf) (i : Nat) (v : Byte) : (s.writeByte b i v).rxbits = s.rxbits := rfl
@[simp] theorem State.writeByte_rxcap (b : Buf) (i : Nat) (v : Byte) : (s.writeByte b i v).rxcap = s.rxcap := rfl
@[simp] theorem State.writeByte_rxpcap (b : Buf) (i : Nat) (v : Byte) : (s.writeByte b i v).rxpcap = s.rxpcap := rfl
@[simp] theorem State.writeByte_rxcapbits (b : Buf) (i : Nat) (v : Byte) : (s.writeByte b i v).rxcapbits = s.rxcapbits := rfl
@[simp] theorem State.writeByte_timeout (b : Buf) (i : Nat) (v : Byte) : (s.writeByte b i v).timeout = s.timeout := rfl
@[simp] theorem State.writeByte_cycles (b : Buf) (i : Nat) (v : Byte) : (s.writeByte b i v).cycles = s.cycles := rfl
@[simp] theorem State.writeByte_hboff (b : Buf) (i : Nat) (v : Byte) : (s.writeByte b i v).hboff = s.hboff := rfl
@[simp] theorem State.writeByte_pend (b : Buf) (i : Nat) (v : Byte) : (s.writeByte b i v).pend = s.pend := rfl
@[simp] theorem State.writeByte_mem (b : Buf) (i : Nat) (v : Byte) : (s.writeByte b i v).mem = s.mem.write (b.base + i) v := rfl
@[simp] theorem State.writeByte_openCode (b : Buf) (i : Nat) (v : Byte) : (s.writeByte b i v).openCode = s.openCode := rfl
@[simp] theorem State.writeByte_toLink (b : Buf) (i : Nat) (v : Byte) : (s.writeByte b i v).toLink = s.toLink := rfl
@[simp] theorem State.writeByte_toHost (b : Buf) (i : Nat) (v : Byte) : (s.writeByte b i v).toHost = s.toHost := rfl
@[simp] theorem State.writeByte_events (b : Buf) (i : Nat) (v : Byte) : (s.writeByte b i v).events = s.events := rfl
@[simp] theorem State.writeByte_resets (b : Buf) (i : Nat) (v : Byte) : (s.writeByte b i v).resets = s.resets := rfl

/-! ### `State.request` -/

@[simp] theorem State.request_status (q : LinkReq) : (s.request q).status = s.status := rfl
@[simp] theorem State.request_err (q : LinkReq) : (s.request q).err = s.err := rfl
@[simp] theorem State.request_acca (q : LinkReq) : (s.request q).acca = s.acca := rfl
@[simp] theorem State.request_accb (q : LinkReq) : (s.request q).accb = s.accb := rfl
@[simp] theorem State.request_dinlen (q : LinkReq) : (s.request q).dinlen = s.dinlen := rfl
@[simp] theorem State.request_pinlen (q : LinkReq) : (s.request q).pinlen = s.pinlen := rfl
@[simp] theorem State.request_doutlen (q : LinkReq) : (s.request q).doutlen = s.doutlen := rfl
@[simp] theorem State.request_poutlen (q : LinkReq) : (s.request q).poutlen = s.poutlen := rfl
@[simp] theorem State.request_txbits (q : LinkReq) : (s.request q).txbits = s.txbits := rfl
@[simp] theorem State.request_rxbits (q : LinkReq) : (s.request q).rxbits = s.rxbits := rfl
@[simp] theorem State.request_rxcap (q : LinkReq) : (s.request q).rxcap = s.rxcap := rfl
@[simp] theorem State.request_rxpcap (q : LinkReq) : (s.request q).rxpcap = s.rxpcap := rfl
@[simp] theorem State.request_rxcapbits (q : LinkReq) : (s.request q).rxcapbits = s.rxcapbits := rfl
@[simp] theorem State.request_timeout (q : LinkReq) : (s.request q).timeout = s.timeout := rfl
@[simp] theorem State.request_cycles (q : LinkReq) : (s.request q).cycles = s.cycles := rfl
@[simp] theorem State.request_hboff (q : LinkReq) : (s.request q).hboff = s.hboff := rfl
@[simp] theorem State.request_pend (q : LinkReq) : (s.request q).pend = s.pend := rfl
@[simp] theorem State.request_mem (q : LinkReq) : (s.request q).mem = s.mem := rfl
@[simp] theorem State.request_openCode (q : LinkReq) : (s.request q).openCode = s.openCode := rfl
@[simp] theorem State.request_toLink (q : LinkReq) : (s.request q).toLink = s.toLink ++ [q] := rfl
@[simp] theorem State.request_toHost (q : LinkReq) : (s.request q).toHost = s.toHost := rfl
@[simp] theorem State.request_events (q : LinkReq) : (s.request q).events = s.events := rfl
@[simp] theorem State.request_resets (q : LinkReq) : (s.request q).resets = s.resets := rfl

/-! ### `State.reply` -/

@[simp] theorem State.reply_status (r : HostReply) : (s.reply r).status = s.status := rfl
@[simp] theorem State.reply_err (r : HostReply) : (s.reply r).err = s.err := rfl
@[simp] theorem State.reply_acca (r : HostReply) : (s.reply r).acca = s.acca := rfl
@[simp] theorem State.reply_accb (r : HostReply) : (s.reply r).accb = s.accb := rfl
@[simp] theorem State.reply_dinlen (r : HostReply) : (s.reply r).dinlen = s.dinlen := rfl
@[simp] theorem State.reply_pinlen (r : HostReply) : (s.reply r).pinlen = s.pinlen := rfl
@[simp] theorem State.reply_doutlen (r : HostReply) : (s.reply r).doutlen = s.doutlen := rfl
@[simp] theorem State.reply_poutlen (r : HostReply) : (s.reply r).poutlen = s.poutlen := rfl
@[simp] theorem State.reply_txbits (r : HostReply) : (s.reply r).txbits = s.txbits := rfl
@[simp] theorem State.reply_rxbits (r : HostReply) : (s.reply r).rxbits = s.rxbits := rfl
@[simp] theorem State.reply_rxcap (r : HostReply) : (s.reply r).rxcap = s.rxcap := rfl
@[simp] theorem State.reply_rxpcap (r : HostReply) : (s.reply r).rxpcap = s.rxpcap := rfl
@[simp] theorem State.reply_rxcapbits (r : HostReply) : (s.reply r).rxcapbits = s.rxcapbits := rfl
@[simp] theorem State.reply_timeout (r : HostReply) : (s.reply r).timeout = s.timeout := rfl
@[simp] theorem State.reply_cycles (r : HostReply) : (s.reply r).cycles = s.cycles := rfl
@[simp] theorem State.reply_hboff (r : HostReply) : (s.reply r).hboff = s.hboff := rfl
@[simp] theorem State.reply_pend (r : HostReply) : (s.reply r).pend = s.pend := rfl
@[simp] theorem State.reply_mem (r : HostReply) : (s.reply r).mem = s.mem := rfl
@[simp] theorem State.reply_openCode (r : HostReply) : (s.reply r).openCode = s.openCode := rfl
@[simp] theorem State.reply_toLink (r : HostReply) : (s.reply r).toLink = s.toLink := rfl
@[simp] theorem State.reply_toHost (r : HostReply) : (s.reply r).toHost = s.toHost ++ [r] := rfl
@[simp] theorem State.reply_events (r : HostReply) : (s.reply r).events = s.events := rfl
@[simp] theorem State.reply_resets (r : HostReply) : (s.reply r).resets = s.resets := rfl

/-! ### `State.finish` -/

@[simp] theorem State.finish_status (k : ErrKind) : (s.finish k).status = s.status := rfl
@[simp] theorem State.finish_err (k : ErrKind) : (s.finish k).err = k.code := rfl
@[simp] theorem State.finish_acca (k : ErrKind) : (s.finish k).acca = s.acca := rfl
@[simp] theorem State.finish_accb (k : ErrKind) : (s.finish k).accb = s.accb := rfl
@[simp] theorem State.finish_dinlen (k : ErrKind) : (s.finish k).dinlen = s.dinlen := rfl
@[simp] theorem State.finish_pinlen (k : ErrKind) : (s.finish k).pinlen = s.pinlen := rfl
@[simp] theorem State.finish_doutlen (k : ErrKind) : (s.finish k).doutlen = s.doutlen := rfl
@[simp] theorem State.finish_poutlen (k : ErrKind) : (s.finish k).poutlen = s.poutlen := rfl
@[simp] theorem State.finish_txbits (k : ErrKind) : (s.finish k).txbits = s.txbits := rfl
@[simp] theorem State.finish_rxbits (k : ErrKind) : (s.finish k).rxbits = s.rxbits := rfl
@[simp] theorem State.finish_rxcap (k : ErrKind) : (s.finish k).rxcap = s.rxcap := rfl
@[simp] theorem State.finish_rxpcap (k : ErrKind) : (s.finish k).rxpcap = s.rxpcap := rfl
@[simp] theorem State.finish_rxcapbits (k : ErrKind) : (s.finish k).rxcapbits = s.rxcapbits := rfl
@[simp] theorem State.finish_timeout (k : ErrKind) : (s.finish k).timeout = s.timeout := rfl
@[simp] theorem State.finish_cycles (k : ErrKind) : (s.finish k).cycles = s.cycles := rfl
@[simp] theorem State.finish_hboff (k : ErrKind) : (s.finish k).hboff = s.hboff := rfl
@[simp] theorem State.finish_pend (k : ErrKind) : (s.finish k).pend = s.pend := rfl
@[simp] theorem State.finish_mem (k : ErrKind) : (s.finish k).mem = s.mem := rfl
@[simp] theorem State.finish_openCode (k : ErrKind) : (s.finish k).openCode = s.openCode := rfl
@[simp] theorem State.finish_toLink (k : ErrKind) : (s.finish k).toLink = s.toLink := rfl
@[simp] theorem State.finish_toHost (k : ErrKind) : (s.finish k).toHost = s.toHost := rfl
@[simp] theorem State.finish_events (k : ErrKind) : (s.finish k).events = s.events := rfl
@[simp] theorem State.finish_resets (k : ErrKind) : (s.finish k).resets = s.resets := rfl

/-! ### `State.result` -/

@[simp] theorem State.result_status (v : List Byte) : (s.result v).status = s.status := rfl
@[simp] theorem State.result_err (v : List Byte) : (s.result v).err = s.err := rfl
@[simp] theorem State.result_acca (v : List Byte) : (s.result v).acca = s.acca := rfl
@[simp] theorem State.result_accb (v : List Byte) : (s.result v).accb = s.accb := rfl
@[simp] theorem State.result_dinlen (v : List Byte) : (s.result v).dinlen = s.dinlen := rfl
@[simp] theorem State.result_pinlen (v : List Byte) : (s.result v).pinlen = s.pinlen := rfl
@[simp] theorem State.result_doutlen (v : List Byte) : (s.result v).doutlen = BitVec.ofNat 16 v.length := rfl
@[simp] theorem State.result_poutlen (v : List Byte) : (s.result v).poutlen = s.poutlen := rfl
@[simp] theorem State.result_txbits (v : List Byte) : (s.result v).txbits = s.txbits := rfl
@[simp] theorem State.result_rxbits (v : List Byte) : (s.result v).rxbits = s.rxbits := rfl
@[simp] theorem State.result_rxcap (v : List Byte) : (s.result v).rxcap = s.rxcap := rfl
@[simp] theorem State.result_rxpcap (v : List Byte) : (s.result v).rxpcap = s.rxpcap := rfl
@[simp] theorem State.result_rxcapbits (v : List Byte) : (s.result v).rxcapbits = s.rxcapbits := rfl
@[simp] theorem State.result_timeout (v : List Byte) : (s.result v).timeout = s.timeout := rfl
@[simp] theorem State.result_cycles (v : List Byte) : (s.result v).cycles = s.cycles := rfl
@[simp] theorem State.result_hboff (v : List Byte) : (s.result v).hboff = s.hboff := rfl
@[simp] theorem State.result_pend (v : List Byte) : (s.result v).pend = s.pend := rfl
@[simp] theorem State.result_mem (v : List Byte) : (s.result v).mem = s.mem.writeAll Buf.dout.base v := rfl
@[simp] theorem State.result_openCode (v : List Byte) : (s.result v).openCode = s.openCode := rfl
@[simp] theorem State.result_toLink (v : List Byte) : (s.result v).toLink = s.toLink := rfl
@[simp] theorem State.result_toHost (v : List Byte) : (s.result v).toHost = s.toHost := rfl
@[simp] theorem State.result_events (v : List Byte) : (s.result v).events = s.events := rfl
@[simp] theorem State.result_resets (v : List Byte) : (s.result v).resets = s.resets := rfl

/-! ### `State.goBusy` -/

@[simp] theorem State.goBusy_status (op : Byte) : (s.goBusy op).status = putBit (putBit s.status 3 false) 0 true := rfl
@[simp] theorem State.goBusy_err (op : Byte) : (s.goBusy op).err = s.err := rfl
@[simp] theorem State.goBusy_acca (op : Byte) : (s.goBusy op).acca = s.acca := rfl
@[simp] theorem State.goBusy_accb (op : Byte) : (s.goBusy op).accb = s.accb := rfl
@[simp] theorem State.goBusy_dinlen (op : Byte) : (s.goBusy op).dinlen = s.dinlen := rfl
@[simp] theorem State.goBusy_pinlen (op : Byte) : (s.goBusy op).pinlen = s.pinlen := rfl
@[simp] theorem State.goBusy_doutlen (op : Byte) : (s.goBusy op).doutlen = s.doutlen := rfl
@[simp] theorem State.goBusy_poutlen (op : Byte) : (s.goBusy op).poutlen = s.poutlen := rfl
@[simp] theorem State.goBusy_txbits (op : Byte) : (s.goBusy op).txbits = s.txbits := rfl
@[simp] theorem State.goBusy_rxbits (op : Byte) : (s.goBusy op).rxbits = s.rxbits := rfl
@[simp] theorem State.goBusy_rxcap (op : Byte) : (s.goBusy op).rxcap = s.rxcap := rfl
@[simp] theorem State.goBusy_rxpcap (op : Byte) : (s.goBusy op).rxpcap = s.rxpcap := rfl
@[simp] theorem State.goBusy_rxcapbits (op : Byte) : (s.goBusy op).rxcapbits = s.rxcapbits := rfl
@[simp] theorem State.goBusy_timeout (op : Byte) : (s.goBusy op).timeout = s.timeout := rfl
@[simp] theorem State.goBusy_cycles (op : Byte) : (s.goBusy op).cycles = s.cycles := rfl
@[simp] theorem State.goBusy_hboff (op : Byte) : (s.goBusy op).hboff = s.hboff := rfl
@[simp] theorem State.goBusy_pend (op : Byte) : (s.goBusy op).pend = op := rfl
@[simp] theorem State.goBusy_mem (op : Byte) : (s.goBusy op).mem = s.mem := rfl
@[simp] theorem State.goBusy_openCode (op : Byte) : (s.goBusy op).openCode = s.openCode := rfl
@[simp] theorem State.goBusy_toLink (op : Byte) : (s.goBusy op).toLink = s.toLink := rfl
@[simp] theorem State.goBusy_toHost (op : Byte) : (s.goBusy op).toHost = s.toHost := rfl
@[simp] theorem State.goBusy_events (op : Byte) : (s.goBusy op).events = s.events := rfl
@[simp] theorem State.goBusy_resets (op : Byte) : (s.goBusy op).resets = s.resets := rfl

/-! ### `State.endPending` -/

@[simp] theorem State.endPending_status : (s.endPending).status = putBit (putBit s.status 0 false) 3 false := rfl
@[simp] theorem State.endPending_err : (s.endPending).err = s.err := rfl
@[simp] theorem State.endPending_acca : (s.endPending).acca = s.acca := rfl
@[simp] theorem State.endPending_accb : (s.endPending).accb = s.accb := rfl
@[simp] theorem State.endPending_dinlen : (s.endPending).dinlen = s.dinlen := rfl
@[simp] theorem State.endPending_pinlen : (s.endPending).pinlen = s.pinlen := rfl
@[simp] theorem State.endPending_doutlen : (s.endPending).doutlen = s.doutlen := rfl
@[simp] theorem State.endPending_poutlen : (s.endPending).poutlen = s.poutlen := rfl
@[simp] theorem State.endPending_txbits : (s.endPending).txbits = s.txbits := rfl
@[simp] theorem State.endPending_rxbits : (s.endPending).rxbits = s.rxbits := rfl
@[simp] theorem State.endPending_rxcap : (s.endPending).rxcap = s.rxcap := rfl
@[simp] theorem State.endPending_rxpcap : (s.endPending).rxpcap = s.rxpcap := rfl
@[simp] theorem State.endPending_rxcapbits : (s.endPending).rxcapbits = s.rxcapbits := rfl
@[simp] theorem State.endPending_timeout : (s.endPending).timeout = s.timeout := rfl
@[simp] theorem State.endPending_cycles : (s.endPending).cycles = s.cycles := rfl
@[simp] theorem State.endPending_hboff : (s.endPending).hboff = s.hboff := rfl
@[simp] theorem State.endPending_pend : (s.endPending).pend = s.pend := rfl
@[simp] theorem State.endPending_mem : (s.endPending).mem = s.mem := rfl
@[simp] theorem State.endPending_openCode : (s.endPending).openCode = s.openCode := rfl
@[simp] theorem State.endPending_toLink : (s.endPending).toLink = s.toLink := rfl
@[simp] theorem State.endPending_toHost : (s.endPending).toHost = s.toHost := rfl
@[simp] theorem State.endPending_events : (s.endPending).events = s.events := rfl
@[simp] theorem State.endPending_resets : (s.endPending).resets = s.resets := rfl

/-! ### The fields of `STATUS` -/

theorem putBit_getLsbD (st : BitVec 4) (k j : Nat) (b : Bool) (hj : j < 4) :
    (putBit st k b).getLsbD j = if j = k then b else st.getLsbD j := by
  unfold putBit
  by_cases h : j = k
  · subst h
    cases b <;> simp [hj]
  · cases b <;> simp [hj, h] <;> intros <;> omega

@[simp] theorem State.setBusy_busy (x : Bool) : (s.setBusy x).busy = x :=
  putBit_getLsbD s.status 0 0 x (by decide)

@[simp] theorem State.setBusy_isOpen (x : Bool) : (s.setBusy x).isOpen = s.isOpen :=
  putBit_getLsbD s.status 0 1 x (by decide)

@[simp] theorem State.setBusy_hbvalid (x : Bool) : (s.setBusy x).hbvalid = s.hbvalid :=
  putBit_getLsbD s.status 0 2 x (by decide)

@[simp] theorem State.setBusy_abtp (x : Bool) : (s.setBusy x).abtp = s.abtp :=
  putBit_getLsbD s.status 0 3 x (by decide)

@[simp] theorem State.setOpen_busy (x : Bool) : (s.setOpen x).busy = s.busy :=
  putBit_getLsbD s.status 1 0 x (by decide)

@[simp] theorem State.setOpen_isOpen (x : Bool) : (s.setOpen x).isOpen = x :=
  putBit_getLsbD s.status 1 1 x (by decide)

@[simp] theorem State.setOpen_hbvalid (x : Bool) : (s.setOpen x).hbvalid = s.hbvalid :=
  putBit_getLsbD s.status 1 2 x (by decide)

@[simp] theorem State.setOpen_abtp (x : Bool) : (s.setOpen x).abtp = s.abtp :=
  putBit_getLsbD s.status 1 3 x (by decide)

@[simp] theorem State.setHbvalid_busy (x : Bool) : (s.setHbvalid x).busy = s.busy :=
  putBit_getLsbD s.status 2 0 x (by decide)

@[simp] theorem State.setHbvalid_isOpen (x : Bool) : (s.setHbvalid x).isOpen = s.isOpen :=
  putBit_getLsbD s.status 2 1 x (by decide)

@[simp] theorem State.setHbvalid_hbvalid (x : Bool) : (s.setHbvalid x).hbvalid = x :=
  putBit_getLsbD s.status 2 2 x (by decide)

@[simp] theorem State.setHbvalid_abtp (x : Bool) : (s.setHbvalid x).abtp = s.abtp :=
  putBit_getLsbD s.status 2 3 x (by decide)

@[simp] theorem State.setAbtp_busy (x : Bool) : (s.setAbtp x).busy = s.busy :=
  putBit_getLsbD s.status 3 0 x (by decide)

@[simp] theorem State.setAbtp_isOpen (x : Bool) : (s.setAbtp x).isOpen = s.isOpen :=
  putBit_getLsbD s.status 3 1 x (by decide)

@[simp] theorem State.setAbtp_hbvalid (x : Bool) : (s.setAbtp x).hbvalid = s.hbvalid :=
  putBit_getLsbD s.status 3 2 x (by decide)

@[simp] theorem State.setAbtp_abtp (x : Bool) : (s.setAbtp x).abtp = x :=
  putBit_getLsbD s.status 3 3 x (by decide)

@[simp] theorem State.writeBuf_busy (b : Buf) (v : List Byte) : (s.writeBuf b v).busy = s.busy := rfl
@[simp] theorem State.writeBuf_isOpen (b : Buf) (v : List Byte) : (s.writeBuf b v).isOpen = s.isOpen := rfl
@[simp] theorem State.writeBuf_hbvalid (b : Buf) (v : List Byte) : (s.writeBuf b v).hbvalid = s.hbvalid := rfl
@[simp] theorem State.writeBuf_abtp (b : Buf) (v : List Byte) : (s.writeBuf b v).abtp = s.abtp := rfl

@[simp] theorem State.writeByte_busy (b : Buf) (i : Nat) (v : Byte) : (s.writeByte b i v).busy = s.busy := rfl
@[simp] theorem State.writeByte_isOpen (b : Buf) (i : Nat) (v : Byte) : (s.writeByte b i v).isOpen = s.isOpen := rfl
@[simp] theorem State.writeByte_hbvalid (b : Buf) (i : Nat) (v : Byte) : (s.writeByte b i v).hbvalid = s.hbvalid := rfl
@[simp] theorem State.writeByte_abtp (b : Buf) (i : Nat) (v : Byte) : (s.writeByte b i v).abtp = s.abtp := rfl

@[simp] theorem State.request_busy (q : LinkReq) : (s.request q).busy = s.busy := rfl
@[simp] theorem State.request_isOpen (q : LinkReq) : (s.request q).isOpen = s.isOpen := rfl
@[simp] theorem State.request_hbvalid (q : LinkReq) : (s.request q).hbvalid = s.hbvalid := rfl
@[simp] theorem State.request_abtp (q : LinkReq) : (s.request q).abtp = s.abtp := rfl

@[simp] theorem State.reply_busy (r : HostReply) : (s.reply r).busy = s.busy := rfl
@[simp] theorem State.reply_isOpen (r : HostReply) : (s.reply r).isOpen = s.isOpen := rfl
@[simp] theorem State.reply_hbvalid (r : HostReply) : (s.reply r).hbvalid = s.hbvalid := rfl
@[simp] theorem State.reply_abtp (r : HostReply) : (s.reply r).abtp = s.abtp := rfl

@[simp] theorem State.finish_busy (k : ErrKind) : (s.finish k).busy = s.busy := rfl
@[simp] theorem State.finish_isOpen (k : ErrKind) : (s.finish k).isOpen = s.isOpen := rfl
@[simp] theorem State.finish_hbvalid (k : ErrKind) : (s.finish k).hbvalid = s.hbvalid := rfl
@[simp] theorem State.finish_abtp (k : ErrKind) : (s.finish k).abtp = s.abtp := rfl

@[simp] theorem State.result_busy (v : List Byte) : (s.result v).busy = s.busy := rfl
@[simp] theorem State.result_isOpen (v : List Byte) : (s.result v).isOpen = s.isOpen := rfl
@[simp] theorem State.result_hbvalid (v : List Byte) : (s.result v).hbvalid = s.hbvalid := rfl
@[simp] theorem State.result_abtp (v : List Byte) : (s.result v).abtp = s.abtp := rfl

@[simp] theorem State.goBusy_busy (op : Byte) : (s.goBusy op).busy = true :=
  putBit_getLsbD _ 0 0 _ (by decide)

@[simp] theorem State.goBusy_isOpen (op : Byte) : (s.goBusy op).isOpen = s.isOpen :=
  (putBit_getLsbD _ 0 1 _ (by decide)).trans (putBit_getLsbD _ 3 1 _ (by decide))

@[simp] theorem State.goBusy_hbvalid (op : Byte) : (s.goBusy op).hbvalid = s.hbvalid :=
  (putBit_getLsbD _ 0 2 _ (by decide)).trans (putBit_getLsbD _ 3 2 _ (by decide))

@[simp] theorem State.goBusy_abtp (op : Byte) : (s.goBusy op).abtp = false :=
  (putBit_getLsbD _ 0 3 _ (by decide)).trans (putBit_getLsbD _ 3 3 _ (by decide))


@[simp] theorem State.endPending_busy : (s.endPending).busy = false :=
  (putBit_getLsbD _ 3 0 _ (by decide)).trans (putBit_getLsbD _ 0 0 _ (by decide))

@[simp] theorem State.endPending_isOpen : (s.endPending).isOpen = s.isOpen :=
  (putBit_getLsbD _ 3 1 _ (by decide)).trans (putBit_getLsbD _ 0 1 _ (by decide))

@[simp] theorem State.endPending_hbvalid : (s.endPending).hbvalid = s.hbvalid :=
  (putBit_getLsbD _ 3 2 _ (by decide)).trans (putBit_getLsbD _ 0 2 _ (by decide))

@[simp] theorem State.endPending_abtp : (s.endPending).abtp = false :=
  putBit_getLsbD _ 3 3 _ (by decide)


end Sys2Proof.Machine
end

