-- ==== Sys2Proof/Laws/Memory.lean ====
section
/-! SUPPORT. Memory: a read after a write, the canonical form, and the bytes of buffers after a write. -/

namespace Sys2Proof.Machine

/-! ### One byte -/

theorem Memory.read?_write (m : Memory) (a b : Nat) (v : Byte) :
    (m.write a v).read? b = if b = a then some v else m.read? b := by
  induction m with
  | nil => simp [Memory.write, Memory.read?]
  | cons c m ih =>
    obtain ⟨a', v'⟩ := c
    simp only [Memory.write]
    split
    · simp [Memory.read?]
    · split
      · subst_vars; simp only [Memory.read?]; split <;> simp_all
      · simp only [Memory.read?, ih]
        by_cases h1 : b = a' <;> by_cases h2 : b = a <;> simp_all

theorem Memory.risesFrom_mono {m : Memory} {lo lo' : Nat} (h : lo' ≤ lo) (hm : m.risesFrom lo = true) :
    m.risesFrom lo' = true := by
  cases m with
  | nil => rfl
  | cons c m =>
    obtain ⟨a, v⟩ := c
    simp only [Memory.risesFrom, Bool.and_eq_true, decide_eq_true_eq] at *
    exact ⟨by omega, hm.2⟩

theorem Memory.risesFrom_write {m : Memory} {lo a : Nat} {v : Byte} (ha : lo ≤ a)
    (hm : m.risesFrom lo = true) : (m.write a v).risesFrom lo = true := by
  induction m generalizing lo with
  | nil => simp [Memory.write, Memory.risesFrom, ha]
  | cons c m ih =>
    obtain ⟨a', v'⟩ := c
    simp only [Memory.risesFrom, Bool.and_eq_true, decide_eq_true_eq] at hm
    simp only [Memory.write]
    split
    · simp only [Memory.risesFrom, Bool.and_eq_true, decide_eq_true_eq]
      exact ⟨ha, by omega, hm.2⟩
    · split
      · subst_vars
        simp only [Memory.risesFrom, Bool.and_eq_true, decide_eq_true_eq]
        exact ⟨ha, hm.2⟩
      · simp only [Memory.risesFrom, Bool.and_eq_true, decide_eq_true_eq]
        exact ⟨hm.1, ih (by omega) hm.2⟩

theorem Memory.all_write {m : Memory} {a : Nat} {v : Byte} {p : Host.Cell → Bool} (ha : p (a, v) = true)
    (hm : m.all p = true) : (m.write a v).all p = true := by
  induction m with
  | nil => simp [Memory.write, ha]
  | cons c m ih =>
    obtain ⟨a', v'⟩ := c
    simp only [List.all_cons, Bool.and_eq_true] at hm
    simp only [Memory.write]
    split
    · simp [ha, hm.1, hm.2]
    · split
      · simp [ha, hm.2]
      · simp [hm.1, ih hm.2]

/-- A write to a buffer address keeps the canonical form. -/
theorem Memory.wf_write {m : Memory} {a : Nat} {v : Byte} (ha : isBufferAddress a = true)
    (hm : m.wf = true) : (m.write a v).wf = true := by
  simp only [isBufferAddress, Bool.and_eq_true, decide_eq_true_eq] at ha
  simp only [Memory.wf, Bool.and_eq_true] at *
  exact ⟨Memory.risesFrom_write ha.1 hm.1, Memory.all_write (by simpa using ha.2) hm.2⟩

/-! ### A sequence of bytes -/

theorem Memory.read?_writeAll (m : Memory) (a b : Nat) (vs : List Byte) :
    (m.writeAll a vs).read? b = if a ≤ b ∧ b < a + vs.length then vs[b - a]? else m.read? b := by
  induction vs generalizing m a with
  | nil => simp [Memory.writeAll]
  | cons v vs ih =>
    simp only [Memory.writeAll, ih, Memory.read?_write, List.length_cons]
    by_cases h : b = a
    · subst h; simp
    · by_cases h2 : a + 1 ≤ b ∧ b < a + 1 + vs.length
      · rw [if_pos h2, if_pos (by omega), show b - a = b - (a + 1) + 1 by omega]
        simp
      · rw [if_neg h2, if_neg h, if_neg (by omega)]

theorem Memory.wf_writeAll {m : Memory} {a : Nat} {vs : List Byte} (ha : 0x200 ≤ a)
    (hb : a + vs.length ≤ 0xA00) (hm : m.wf = true) : (m.writeAll a vs).wf = true := by
  induction vs generalizing m a with
  | nil => exact hm
  | cons v vs ih =>
    simp only [List.length_cons] at hb
    exact ih (by omega) (by omega) (Memory.wf_write (by simp [isBufferAddress]; omega) hm)

/-- A buffer write of at most 512 bytes keeps the canonical form. -/
theorem State.wf_writeBuf {s : State} {b : Buf} {vs : List Byte} (h : vs.length ≤ 512)
    (hm : s.mem.wf = true) : (s.writeBuf b vs).mem.wf = true := by
  apply Memory.wf_writeAll _ _ hm <;> cases b <;> simp [Buf.base] <;> omega

/-! ### What an address reads as -/

/-- The bytes a buffer write stores, and every other address as before. -/
theorem State.byteOf_writeBuf (s : State) (b : Buf) (vs : List Byte) (a : Nat) :
    (s.writeBuf b vs).byteOf a =
      if h : b.base ≤ a ∧ a < b.base + vs.length then vs[a - b.base]'(by omega) else s.byteOf a := by
  unfold State.byteOf
  simp only [State.writeBuf_mem, State.writeBuf_resets, Memory.read?_writeAll]
  split
  · rename_i h
    rw [List.getElem?_eq_getElem (by omega)]; rfl
  · rfl

theorem State.byteOf_writeByte (s : State) (b : Buf) (i : Nat) (v : Byte) (a : Nat) :
    (s.writeByte b i v).byteOf a = if a = b.base + i then v else s.byteOf a := by
  unfold State.byteOf
  simp only [State.writeByte_mem, State.writeByte_resets, Memory.read?_write]
  split <;> rfl

/-- What an address reads as depends on the memory and the number of resets alone. -/
theorem State.byteOf_congr {s t : State} (hm : t.mem = s.mem) (hr : t.resets = s.resets) (a : Nat) :
    t.byteOf a = s.byteOf a := by
  simp [State.byteOf, hm, hr]

theorem State.bufBytes_congr {s t : State} (hm : t.mem = s.mem) (hr : t.resets = s.resets) (b : Buf) (n : Nat) :
    t.bufBytes b n = s.bufBytes b n := by
  simp [State.bufBytes, State.bufByte, State.byteOf_congr hm hr]

@[simp] theorem State.length_bufBytes (s : State) (b : Buf) (n : Nat) : (s.bufBytes b n).length = n := by
  simp [State.bufBytes]

theorem State.getElem_bufBytes (s : State) (b : Buf) (n i : Nat) (h : i < (s.bufBytes b n).length) :
    (s.bufBytes b n)[i] = s.bufByte b i := by
  simp [State.bufBytes]

@[simp] theorem State.length_dinBytes (s : State) : s.dinBytes.length = s.dinN := by
  simp [State.dinBytes]

end Sys2Proof.Machine
end

