-- ==== Sys2Proof/Laws/Ops.lean ====
section
/-! SUPPORT. What each shared operation can do, said once: later proofs cite these and do not unfold. -/

namespace Sys2Proof.Machine

/-! ### The guard and the continuation -/

theorem whenIdle_of_idle {s : State} {o : Outcome} (h : s.busy = false) : whenIdle s o = o := by
  simp [whenIdle, h]

theorem whenIdle_of_busy {s : State} {o : Outcome} (h : s.busy = true) :
    whenIdle s o = .refused .writeWhileBusy := by
  simp [whenIdle, h]

theorem whenIdle_eq_next {s t : State} {o : Outcome} :
    whenIdle s o = .next t ↔ s.busy = false ∧ o = .next t := by
  cases h : s.busy <;> simp [whenIdle, h]

theorem thenNext_eq_next {o : Outcome} {f : State → State} {t : State} :
    thenNext o f = .next t ↔ ∃ u, o = .next u ∧ f u = t := by
  cases o <;> simp [thenNext]

theorem thenNext_eq_fault {o : Outcome} {f : State → State} {r : Fault} :
    thenNext o f = .fault r ↔ o = .fault r := by
  cases o <;> simp [thenNext]

@[simp] theorem thenNext_next (s : State) (f : State → State) : thenNext (.next s) f = .next (f s) := rfl

theorem raise_eq_next {e : ErrKind} {s t : State} : raise e s = .next t ↔ s.finish e = t := by
  simp [raise]

/-! ### Error codes -/

/-- Code 15 is never produced (R230). -/
theorem ErrKind.code_le (k : ErrKind) : k.code.toNat ≤ 14 := by cases k <;> decide

/-- The link's code in `ERR` is 0 only for `Success`, and never `DeviceClosed` (R161, R162). -/
theorem LinkCode.kind_code_ne (c : LinkCode) : (c ≠ .success → c.kind.code ≠ 0) ∧ c.kind.code ≠ 14 := by
  cases c <;> decide

/-! ### Link commands -/

@[simp] theorem LinkOp.ofOpcode_opcode (op : LinkOp) : LinkOp.ofOpcode op.opcode = some op := by
  cases op <;> rfl

theorem LinkOp.opcode_of_ofOpcode {b : Byte} {op : LinkOp} (h : LinkOp.ofOpcode b = some op) : op.opcode = b := by
  simpa using List.find?_some h

theorem issue_eq_next {op : LinkOp} {cs : List LocalCheck} {req : State → LinkReq} {s t : State} :
    issue op cs req s = .next t ↔ s.busy = false ∧
      ((∃ e, firstFailure s cs = some e ∧ s.finish e = t) ∨
        (firstFailure s cs = none ∧ (s.goBusy op.opcode).request (req s) = t)) := by
  rw [issue, whenIdle_eq_next]
  cases firstFailure s cs <;> simp [raise]

/-- The checks pass exactly when each of them passes. -/
theorem firstFailure_eq_none {s : State} {cs : List LocalCheck} :
    firstFailure s cs = none ↔ ∀ c ∈ cs, c.passes s = true := by
  induction cs with
  | nil => simp [firstFailure]
  | cons c cs ih =>
    cases h : c.passes s <;> simp [firstFailure, h, ih]

/-- Checks other than the device check raise `InvalidArgument`. -/
theorem firstFailure_args {s : State} {cs : List LocalCheck} (hcs : .deviceOpen ∉ cs) :
    firstFailure s cs = if ∀ c ∈ cs, c.passes s = true then none else some .invalidArgument := by
  induction cs with
  | nil => simp [firstFailure]
  | cons c cs ih =>
    simp only [List.mem_cons, not_or] at hcs
    cases hc : c.passes s
    · have : c.error = .invalidArgument := by cases c <;> simp_all [LocalCheck.error]
      simp [firstFailure, hc, this]
    · simp [firstFailure, hc, ih hcs.2]

/-- A list of checks that begins with the device check raises `DeviceClosed` when the device is closed, and else
what the other checks raise (R166: check 1 comes first). -/
theorem firstFailure_deviceOpen (s : State) (cs : List LocalCheck) :
    firstFailure s (.deviceOpen :: cs) = if s.isOpen then firstFailure s cs else some .deviceClosed := rfl

/-- A link command on a closed device (R166, check 1). -/
theorem issue_of_closed {op : LinkOp} {cs : List LocalCheck} {req : State → LinkReq} {s : State}
    (hb : s.busy = false) (ho : s.isOpen = false) :
    issue op (.deviceOpen :: cs) req s = raise .deviceClosed s := by
  rw [issue, whenIdle_of_idle hb, firstFailure_deviceOpen, ho]; rfl

/-- A link command on an open device with an illegal operand (R166, checks 2 to 8). -/
theorem issue_of_badOperand {op : LinkOp} {cs : List LocalCheck} {req : State → LinkReq} {s : State}
    (hb : s.busy = false) (ho : s.isOpen = true) (hcs : .deviceOpen ∉ cs)
    (h : ¬∀ c ∈ cs, c.passes s = true) :
    issue op (.deviceOpen :: cs) req s = raise .invalidArgument s := by
  rw [issue, whenIdle_of_idle hb, firstFailure_deviceOpen, ho, if_pos rfl, firstFailure_args hcs, if_neg h]

/-- A link command whose checks all pass goes `BUSY` with its request at the link (R164). -/
theorem issue_of_checks {op : LinkOp} {cs : List LocalCheck} {req : State → LinkReq} {s : State}
    (hb : s.busy = false) (ho : s.isOpen = true) (hcs : .deviceOpen ∉ cs) (h : ∀ c ∈ cs, c.passes s = true) :
    issue op (.deviceOpen :: cs) req s = .next ((s.goBusy op.opcode).request (req s)) := by
  rw [issue, whenIdle_of_idle hb, firstFailure_deviceOpen, ho, if_pos rfl, firstFailure_args hcs, if_pos h]

theorem wentBusy_goBusy (op : Byte) (q : LinkReq) (s : State) : WentBusy op q s ((s.goBusy op).request q) :=
  ⟨by simp, by simp, by simp, by simp, rfl⟩

/-! ### What a passed check says -/

@[simp] theorem LocalCheck.passes_deviceOpen (s : State) : LocalCheck.deviceOpen.passes s = s.isOpen := rfl

@[simp] theorem LocalCheck.passes_dinFits (s : State) :
    LocalCheck.dinFits.passes s = true ↔ s.dinlen.toNat ≤ 512 := by
  simp only [LocalCheck.passes, decide_eq_true_eq]; rfl

@[simp] theorem LocalCheck.passes_pinFits (s : State) :
    LocalCheck.pinFits.passes s = true ↔ s.pinlen.toNat ≤ 512 := by
  simp only [LocalCheck.passes, decide_eq_true_eq]; rfl

@[simp] theorem LocalCheck.passes_rxcapFits (s : State) :
    LocalCheck.rxcapFits.passes s = true ↔ s.rxcap.toNat ≤ 512 := by
  simp only [LocalCheck.passes, decide_eq_true_eq]; rfl

@[simp] theorem LocalCheck.passes_rxpcapFits (s : State) :
    LocalCheck.rxpcapFits.passes s = true ↔ s.rxpcap.toNat ≤ 512 := by
  simp only [LocalCheck.passes, decide_eq_true_eq]; rfl

@[simp] theorem LocalCheck.passes_timeoutLegal (s : State) :
    LocalCheck.timeoutLegal.passes s = true ↔ -1 ≤ s.timeout.toInt := by
  simp only [LocalCheck.passes, decide_eq_true_eq]; rfl

@[simp] theorem LocalCheck.passes_txPrecondition (s : State) :
    LocalCheck.txPrecondition.passes s = true ↔
      s.pinlen = s.dinlen ∧ s.txbits.toNat ≤ s.dinlen.toNat * 8 := by
  simp [LocalCheck.passes, State.txPre]

@[simp] theorem LocalCheck.passes_rxPrecondition (s : State) :
    LocalCheck.rxPrecondition.passes s = true ↔
      s.rxpcap = s.rxcap ∧ s.rxcapbits.toNat ≤ s.rxcap.toNat * 8 := by
  simp [LocalCheck.passes, State.rxPre]

theorem LinkReq.wellFormed_iff (q : LinkReq) :
    q.wellFormed = true ↔ q.data.length ≤ 512 ∧ q.par.length ≤ 512 ∧ q.nbits ≤ 4096 ∧ q.rxcap ≤ 512 ∧
      q.rxcapbits ≤ 4096 ∧ -2147483648 ≤ q.timeout ∧ q.timeout ≤ 2147483647 := by
  simp only [LinkReq.wellFormed, Bool.and_eq_true, decide_eq_true_eq, and_assoc]

/-! ### Bytes stored -/

/-- A state whose memory is that after a write to one buffer holds the bytes written, and no other byte changed. -/
theorem stores_of_writeBuf {b : Buf} {v : List Byte} {s t : State} (hm : t.mem = (s.writeBuf b v).mem)
    (hr : t.resets = s.resets) : Stores b v s t := by
  have hb : ∀ a, t.byteOf a = (s.writeBuf b v).byteOf a := State.byteOf_congr hm hr
  refine ⟨fun i h => ?_, fun i h => absurd h (by simp), fun a h _ => ?_⟩
  · simp only [State.bufByte, hb, State.byteOf_writeBuf]
    rw [dif_pos ⟨by omega, by omega⟩]; simp
  · rw [hb, State.byteOf_writeBuf, dif_neg h]

/-- The same for `DOUT` and then `POUT`. -/
theorem storesTwo_of_writeBuf {v w : List Byte} {s t : State} (hv : v.length ≤ 512)
    (hm : t.mem = ((s.writeBuf .dout v).writeBuf .pout w).mem) (hr : t.resets = s.resets) :
    StoresTwo .dout v .pout w s t := by
  have hb : ∀ a, t.byteOf a = ((s.writeBuf .dout v).writeBuf .pout w).byteOf a := State.byteOf_congr hm hr
  refine ⟨fun i h => ?_, fun i h => ?_, fun a h h' => ?_⟩
  · simp only [State.bufByte, hb, State.byteOf_writeBuf]
    rw [dif_neg (by simp [Buf.base]; omega), dif_pos ⟨by omega, by omega⟩]; simp
  · simp only [State.bufByte, hb, State.byteOf_writeBuf]
    rw [dif_pos ⟨by omega, by omega⟩]; simp
  · rw [hb, State.byteOf_writeBuf, dif_neg h', State.byteOf_writeBuf, dif_neg h]

/-! ### Receiving -/

theorem deliverBytes_eq_next {v : List Byte} {k : ErrKind} {s t : State} :
    deliverBytes v k s = .next t ↔ v.length ≤ 512 ∧
      State.finish k { s.writeBuf .dout v with doutlen := BitVec.ofNat 16 v.length } = t := by
  unfold deliverBytes Config.frameCap
  split
  · simp; omega
  · simp; omega

theorem deliverBits_eq_next {v p : List Byte} {m n : Nat} {k : ErrKind} {s t : State} :
    deliverBits v p m n k s = .next t ↔ m ≤ 512 ∧
      State.finish k { (s.writeBuf .dout (v.take m)).writeBuf .pout (p.take m) with
        doutlen := BitVec.ofNat 16 m, poutlen := BitVec.ofNat 16 m, rxbits := BitVec.ofNat 16 n } = t := by
  unfold deliverBits Config.frameCap
  split
  · simp; omega
  · simp; omega

theorem deliverBytes_of_le {v : List Byte} (hv : v.length ≤ 512) (k : ErrKind) (s : State) :
    deliverBytes v k s =
      .next (State.finish k { s.writeBuf .dout v with doutlen := BitVec.ofNat 16 v.length }) :=
  deliverBytes_eq_next.2 ⟨hv, rfl⟩

theorem deliverBits_of_le {m : Nat} (hm : m ≤ 512) (v p : List Byte) (n : Nat) (k : ErrKind) (s : State) :
    deliverBits v p m n k s =
      .next (State.finish k { (s.writeBuf .dout (v.take m)).writeBuf .pout (p.take m) with
        doutlen := BitVec.ofNat 16 m, poutlen := BitVec.ofNat 16 m, rxbits := BitVec.ofNat 16 n }) :=
  deliverBits_eq_next.2 ⟨hm, rfl⟩

/-- With a capacity of at most 512 bytes a byte receive always answers a next state (R169, R171). -/
theorem recvBytes_completes (rsp : LinkRsp) {s : State} (h : s.rxcap.toNat ≤ 512) :
    ∃ t, recvBytes rsp s = .next t := by
  unfold recvBytes
  split
  · exact ⟨_, rfl⟩
  · split
    · exact ⟨_, deliverBytes_of_le (by rw [List.length_take]; omega) _ _⟩
    · exact ⟨_, deliverBytes_of_le (by omega) _ _⟩

/-- With a capacity of at most 4096 bits a bit receive always answers a next state (R170, R171). -/
theorem recvBits_completes (rsp : LinkRsp) {s : State} (h : s.rxcapbits.toNat ≤ 4096) :
    ∃ t, recvBits rsp s = .next t := by
  unfold recvBits
  split
  · exact ⟨_, rfl⟩
  · split
    · exact ⟨_, deliverBits_of_le (by unfold ceil8; omega) _ _ _ _ _⟩
    · exact ⟨_, deliverBits_of_le (by unfold ceil8; omega) _ _ _ _ _⟩

/-- A completion rule whose capacities fit always answers a next state (R165). -/
theorem completionRule_completes (op : LinkOp) (rsp : LinkRsp) {s : State} (h : s.capacitiesFit op.shape) :
    ∃ t, completionRule op rsp s = .next t := by
  have hby : s.rxcap.toNat ≤ 512 → ∃ t, recvBytes rsp s = .next t := recvBytes_completes rsp
  have hbi : s.rxcapbits.toNat ≤ 4096 → ∃ t, recvBits rsp s = .next t := recvBits_completes rsp
  have timed : ∀ o : Outcome, (∃ t, o = .next t) → ∃ t, withCycles rsp o = .next t := by
    rintro _ ⟨t, rfl⟩; exact ⟨_, rfl⟩
  cases op
  case xcvBytesT => exact timed _ (hby h)
  case xcvBitsT => exact timed _ (hbi h)
  case tgtSendb => exact ⟨_, rfl⟩
  case tgtSendbits => exact ⟨_, rfl⟩
  all_goals first | exact hby h | exact hbi h

/-- Everything a completion rule can do to the state before `BUSY` and `ABTP` are cleared. -/
inductive Received (rsp : LinkRsp) : RspShape → State → State → Prop
  /-- a send-only command -/
  | sent (s) : Received rsp .sendOnly s (s.finish rsp.code.kind)
  /-- a failure the link reports to a byte command -/
  | failedBytes (s) (h : rsp.code ≠ .success) :
      Received rsp .bytes s (State.finish rsp.code.kind { s with doutlen := 0 })
  /-- a failure the link reports to a bit command -/
  | failedBits (s) (h : rsp.code ≠ .success) :
      Received rsp .bits s (State.finish rsp.code.kind { s with doutlen := 0, poutlen := 0, rxbits := 0 })
  /-- bytes delivered, all of them or the first `RXCAP` with `Overflow` -/
  | bytes (s) (v : List Byte) (k : ErrKind) (h : rsp.code = .success) (hv : v.length ≤ 512)
      (hk : v = rsp.data ∧ v.length ≤ s.rxcap.toNat ∧ k = .success ∨
        s.rxcap.toNat < rsp.data.length ∧ v = rsp.data.take s.rxcap.toNat ∧ k = .overflow) :
      Received rsp .bytes s
        (State.finish k { s.writeBuf .dout v with doutlen := BitVec.ofNat 16 v.length })
  /-- bits delivered, all of them or the first `RXCAPBITS` with `Overflow` -/
  | bits (s) (n : Nat) (k : ErrKind) (h : rsp.code = .success) (hm : ceil8 n ≤ 512)
      (hk : n = rsp.nbits ∧ n ≤ s.rxcapbits.toNat ∧ k = .success ∨
        s.rxcapbits.toNat < rsp.nbits ∧ n = s.rxcapbits.toNat ∧ k = .overflow) :
      Received rsp .bits s
        (State.finish k { (s.writeBuf .dout (rsp.data.take (ceil8 n))).writeBuf .pout (rsp.par.take (ceil8 n)) with
          doutlen := BitVec.ofNat 16 (ceil8 n), poutlen := BitVec.ofNat 16 (ceil8 n),
          rxbits := BitVec.ofNat 16 n })

theorem recvBytes_received {rsp : LinkRsp} {s t : State} (h : recvBytes rsp s = .next t) :
    Received rsp .bytes s t := by
  unfold recvBytes at h
  split at h
  · rename_i hc
    cases h; exact .failedBytes s hc
  · rename_i hc
    simp only [ne_eq, not_not] at hc
    split at h <;> rename_i hl <;> rw [deliverBytes_eq_next] at h <;> obtain ⟨hv, rfl⟩ := h
    · exact .bytes s _ _ hc hv (.inr ⟨hl, rfl, rfl⟩)
    · exact .bytes s _ _ hc hv (.inl ⟨rfl, by omega, rfl⟩)

theorem recvBits_received {rsp : LinkRsp} {s t : State} (h : recvBits rsp s = .next t) :
    Received rsp .bits s t := by
  unfold recvBits at h
  split at h
  · rename_i hc
    cases h; exact .failedBits s hc
  · rename_i hc
    simp only [ne_eq, not_not] at hc
    split at h <;> rename_i hl <;> rw [deliverBits_eq_next] at h <;> obtain ⟨hv, rfl⟩ := h
    · exact .bits s _ _ hc hv (.inr ⟨hl, rfl, rfl⟩)
    · exact .bits s _ _ hc hv (.inl ⟨rfl, by omega, rfl⟩)

/-- The value a completion of `op` leaves in `CYCLES` (R173). -/
def cyclesAfter (op : LinkOp) (rsp : LinkRsp) (s : State) : Word :=
  if (op = .xcvBytesT ∨ op = .xcvBitsT) ∧ rsp.code = .success then rsp.cycles else s.cycles

/-- What a completion rule can do: its receive procedure's effect, and `CYCLES` for the timed commands. -/
theorem completionRule_received {op : LinkOp} {rsp : LinkRsp} {s t : State}
    (h : completionRule op rsp s = .next t) :
    ∃ u, Received rsp op.shape s u ∧ t = { u with cycles := cyclesAfter op rsp s } := by
  have plain : ∀ {k : RspShape}, Received rsp k s t → t = { t with cycles := s.cycles } := by
    intro k hk; cases hk <;> rfl
  have timed : ∀ {o : Outcome} {k : RspShape}, withCycles rsp o = .next t →
      (∀ u, o = .next u → Received rsp k s u) →
      ∃ u, Received rsp k s u ∧ t = { u with cycles := if rsp.code = .success then rsp.cycles else s.cycles } := by
    intro o k h hr
    rw [withCycles, thenNext_eq_next] at h
    obtain ⟨u, hu, rfl⟩ := h
    refine ⟨u, hr u hu, ?_⟩
    split
    · rfl
    · cases hr u hu <;> rfl
  cases op <;> simp only [completionRule, doneXcvBytes, doneXcvBits, doneXcvBytesT, doneXcvBitsT, doneTgtInit,
    doneTgtSendb, doneTgtRecvb, doneTgtSendbits, doneTgtRecvbits, sendDone] at h
  case xcvBytes => exact ⟨t, recvBytes_received h, by simpa [cyclesAfter] using plain (recvBytes_received h)⟩
  case tgtInit => exact ⟨t, recvBytes_received h, by simpa [cyclesAfter] using plain (recvBytes_received h)⟩
  case tgtRecvb => exact ⟨t, recvBytes_received h, by simpa [cyclesAfter] using plain (recvBytes_received h)⟩
  case xcvBits => exact ⟨t, recvBits_received h, by simpa [cyclesAfter] using plain (recvBits_received h)⟩
  case tgtRecvbits => exact ⟨t, recvBits_received h, by simpa [cyclesAfter] using plain (recvBits_received h)⟩
  case xcvBytesT => simpa [cyclesAfter, LinkOp.shape] using timed h (fun _ => recvBytes_received)
  case xcvBitsT => simpa [cyclesAfter, LinkOp.shape] using timed h (fun _ => recvBits_received)
  case tgtSendb => cases h; exact ⟨_, .sent s, rfl⟩
  case tgtSendbits => cases h; exact ⟨_, .sent s, rfl⟩

/-- A response of the right shape runs the pending command's completion rule (R165). -/
theorem complete_of_pending {rsp : LinkRsp} {s : State} {op : LinkOp} (hb : s.busy = true)
    (hp : s.pend = op.opcode) (hs : rsp.hasShape op.shape = true) :
    complete rsp s = thenNext (completionRule op rsp s) State.endPending := by
  unfold complete
  rw [if_pos hb, hp, LinkOp.ofOpcode_opcode]
  simp only [hs, if_true]

/-- What the completion step can do (R165): with nothing pending, nothing; else the pending command's rule, and then
`BUSY` and `ABTP` are cleared. -/
theorem complete_next {rsp : LinkRsp} {s t : State} (h : complete rsp s = .next t) :
    (s.busy = false ∧ t = s) ∨
    ∃ op u, s.busy = true ∧ LinkOp.ofOpcode s.pend = some op ∧ rsp.hasShape op.shape = true ∧
      Received rsp op.shape s u ∧ t = State.endPending { u with cycles := cyclesAfter op rsp s } := by
  unfold complete at h
  split at h
  · rename_i hb
    split at h
    · cases h
    · rename_i op hop
      split at h
      · rename_i hs
        rw [thenNext_eq_next] at h
        obtain ⟨v, hv, rfl⟩ := h
        obtain ⟨u, hu, rfl⟩ := completionRule_received hv
        exact .inr ⟨op, u, hb, hop, hs, hu, rfl⟩
      · cases h
  · rename_i hb
    cases h
    exact .inl ⟨by simpa using hb, rfl⟩

end Sys2Proof.Machine
end

