-- ==== Sys2Proof/Laws/Exec.lean ====
section
/-! SUPPORT. What an operation can do, said once for all of them: the inversion of `exec`. -/

namespace Sys2Proof.Machine

/-- The effect of an operation that answers a next state. -/
inductive Effect : Instr → State → State → Prop
  /-- a failure raised before anything else is written (R236), or a completion that writes `ERR` only -/
  | onlyErr (i s) (k : ErrKind) (hb : s.busy = false) (hi : i ≠ .abort) : Effect i s (s.finish k)
  /-- a CRCA command without output -/
  | acca (i s) (a : Half) (hb : s.busy = false) (hi : isCrca i = true) :
      Effect i s (State.finish .success { s with acca := a })
  /-- `CRCA.APPEND` -/
  | accaOut (i s) (a : Half) (v : List Byte) (hb : s.busy = false) (hi : isCrca i = true) (hv : v.length ≤ 512) :
      Effect i s (State.finish .success (State.result v { s with acca := a }))
  /-- a CRCB command without output -/
  | accb (i s) (a : Half) (hb : s.busy = false) (hi : isCrcb i = true) :
      Effect i s (State.finish .success { s with accb := a })
  /-- `CRCB.APPEND` -/
  | accbOut (i s) (a : Half) (v : List Byte) (hb : s.busy = false) (hi : isCrcb i = true) (hv : v.length ≤ 512) :
      Effect i s (State.finish .success (State.result v { s with accb := a }))
  /-- `CASC.ENC` -/
  | out (s) (v : List Byte) (hb : s.busy = false) (hv : v.length ≤ 512) :
      Effect .cascEnc s (State.finish .success (s.result v))
  /-- `ATS.LOCHB` -/
  | located (s) (v : List Byte) (o : Nat) (f : Bool) (hb : s.busy = false) (hv : v.length ≤ 512) (ho : o ≤ 4) :
      Effect .atsLochb s
        (State.finish .success (State.setHbvalid f (State.result v { s with hboff := BitVec.ofNat 16 o })))
  /-- a link command whose checks pass (R164) -/
  | issued (op : LinkOp) (s) (q : LinkReq) (hb : s.busy = false) (ho : s.isOpen = true) (hq : q.wellFormed = true)
      (hc : s.capacitiesFit op.shape) :
      Effect (linkCommand op) s ((s.goBusy op.opcode).request q)
  /-- `LNK.OPEN` answered with `Success` -/
  | opened (s) (hb : s.busy = false) (ho : s.isOpen = false) (hc : s.openCode = .success) :
      Effect .lnkOpen s (State.finish .success ((s.request reqLnkOpen).setOpen true))
  /-- `LNK.OPEN` answered with a failure -/
  | notOpened (s) (hb : s.busy = false) (ho : s.isOpen = false) (hc : s.openCode ≠ .success) :
      Effect .lnkOpen s (State.finish s.openCode.kind (s.request reqLnkOpen))
  /-- `LNK.CLOSE` of an open session -/
  | closed (s) (hb : s.busy = false) (ho : s.isOpen = true) :
      Effect .lnkClose s (State.finish .success ((s.request reqLnkClose).setOpen false))
  /-- `ABORT` while a command is pending -/
  | aborted (s) (hb : s.busy = true) : Effect .abort s ((s.setAbtp true).request reqAbort)
  /-- `ABORT` with nothing pending -/
  | abortIdle (s) (hb : s.busy = false) : Effect .abort s s

theorem length_crcAppended (seed x : Half) (v : List Byte) : (crcAppended seed x v).length = v.length + 2 := by
  simp [crcAppended, crcBytes]

/-- The lengths of a cascade result (R142). -/
theorem length_cascade (v : List Byte) :
    (cascade v).length = if v.length = 7 then 8 else if v.length = 10 then 12 else v.length := by
  unfold cascade
  split
  · simp_all
  · split <;> simp_all

theorem indicator_le (ats : List Byte) (i : Nat) (m : Byte) : indicator ats i m ≤ 1 := by
  unfold indicator
  split
  · split <;> omega
  · omega

theorem historicalOffset_le (ats : List Byte) : historicalOffset ats ≤ 4 := by
  have h0 := indicator_le ats 0 0x10
  have h1 := indicator_le ats 1 0x20
  have h2 := indicator_le ats 2 0x40
  unfold historicalOffset
  split <;> omega

theorem length_historicalBytes_le (ats : List Byte) : ((historicalBytes ats).getD []).length ≤ ats.length := by
  unfold historicalBytes
  split <;> simp

theorem timeoutInt_bounds (s : State) : -2147483648 ≤ s.timeoutInt ∧ s.timeoutInt ≤ 2147483647 := by
  have h1 := BitVec.le_toInt (x := s.timeout)
  have h2 := BitVec.toInt_lt (x := s.timeout)
  simp only [State.timeoutInt]
  omega

/-- An issue step is an error or the effect `issued`, given what the checks guarantee of the request and of the
capacities. -/
theorem effect_of_issue {op : LinkOp} {cs : List LocalCheck} {req : State → LinkReq} {s t : State}
    (h : issue op (.deviceOpen :: cs) req s = .next t)
    (hq : (∀ c ∈ cs, c.passes s = true) → (req s).wellFormed = true ∧ s.capacitiesFit op.shape) :
    Effect (linkCommand op) s t := by
  rw [issue_eq_next] at h
  obtain ⟨hb, ⟨e, -, rfl⟩ | ⟨hn, rfl⟩⟩ := h
  · exact .onlyErr _ s e hb (by cases op <;> simp [linkCommand])
  · rw [firstFailure_eq_none] at hn
    obtain ⟨h1, h2⟩ := List.forall_mem_cons.1 hn
    obtain ⟨hw, hc⟩ := hq h2
    exact .issued op s _ hb h1 hw hc

/-- The inversion of `exec`: whatever answers a next state has one of these effects. -/
theorem exec_effect {i : Instr} {s t : State} (h : exec i s = .next t) : Effect i s t := by
  have ht := timeoutInt_bounds s
  simp only [State.timeoutInt] at ht
  cases i <;> simp only [exec] at h
  case crcaInit =>
    rw [execCrcaInit, whenIdle_eq_next] at h
    obtain ⟨hb, h⟩ := h; cases h
    exact .acca _ s _ hb rfl
  case crcaUpd b =>
    rw [execCrcaUpd, whenIdle_eq_next] at h
    obtain ⟨hb, h⟩ := h; cases h
    exact .acca _ s _ hb rfl
  case crcaCalc =>
    rw [execCrcaCalc, whenIdle_eq_next] at h
    obtain ⟨hb, h⟩ := h
    split at h <;> cases h
    · exact .onlyErr _ s _ hb (by simp)
    · exact .acca _ s _ hb rfl
  case crcaAppend =>
    rw [execCrcaAppend, whenIdle_eq_next] at h
    obtain ⟨hb, h⟩ := h
    split at h <;> cases h
    · exact .onlyErr _ s _ hb (by simp)
    · rename_i hn
      simp only [appendCap, Config.frameCap] at hn
      exact .accaOut _ s _ _ hb rfl (by simp [length_crcAppended]; omega)
  case crcbInit =>
    rw [execCrcbInit, whenIdle_eq_next] at h
    obtain ⟨hb, h⟩ := h; cases h
    exact .accb _ s _ hb rfl
  case crcbUpd b =>
    rw [execCrcbUpd, whenIdle_eq_next] at h
    obtain ⟨hb, h⟩ := h; cases h
    exact .accb _ s _ hb rfl
  case crcbCalc =>
    rw [execCrcbCalc, whenIdle_eq_next] at h
    obtain ⟨hb, h⟩ := h
    split at h <;> cases h
    · exact .onlyErr _ s _ hb (by simp)
    · exact .accb _ s _ hb rfl
  case crcbAppend =>
    rw [execCrcbAppend, whenIdle_eq_next] at h
    obtain ⟨hb, h⟩ := h
    split at h <;> cases h
    · exact .onlyErr _ s _ hb (by simp)
    · rename_i hn
      simp only [appendCap, Config.frameCap] at hn
      exact .accbOut _ s _ _ hb rfl (by simp [length_crcAppended]; omega)
  case cascEnc =>
    rw [execCascEnc, whenIdle_eq_next] at h
    obtain ⟨hb, h⟩ := h
    split at h <;> cases h
    · exact .onlyErr _ s _ hb (by simp)
    · rename_i hn
      simp only [Config.frameCap] at hn
      exact .out s _ hb (by rw [length_cascade, State.length_dinBytes]; split <;> [omega; (split <;> omega)])
  case atsLochb =>
    rw [execAtsLochb, whenIdle_eq_next] at h
    obtain ⟨hb, h⟩ := h
    split at h <;> cases h
    · exact .onlyErr _ s _ hb (by simp)
    · rename_i hn
      simp only [Config.frameCap] at hn
      have := length_historicalBytes_le s.dinBytes
      rw [State.length_dinBytes] at this
      exact .located s _ _ _ hb (by omega) (historicalOffset_le _)
  case xcvBytes =>
    refine effect_of_issue (op := .xcvBytes) h (fun hp => ?_)
    simp only [List.forall_mem_cons] at hp
    simp at hp
    simp [LinkReq.wellFormed_iff, reqXcvBytes, State.dinN, State.timeoutInt, State.capacitiesFit, LinkOp.shape]
    omega
  case xcvBytesT =>
    refine effect_of_issue (op := .xcvBytesT) h (fun hp => ?_)
    simp only [List.forall_mem_cons] at hp
    simp at hp
    simp [LinkReq.wellFormed_iff, reqXcvBytesT, State.dinN, State.capacitiesFit, LinkOp.shape]
    omega
  case xcvBits =>
    refine effect_of_issue (op := .xcvBits) h (fun hp => ?_)
    simp only [List.forall_mem_cons] at hp
    simp at hp
    simp [LinkReq.wellFormed_iff, reqXcvBits, State.capacitiesFit, LinkOp.shape, State.txBytes, ceil8]
    omega
  case xcvBitsT =>
    refine effect_of_issue (op := .xcvBitsT) h (fun hp => ?_)
    simp only [List.forall_mem_cons] at hp
    simp at hp
    simp [LinkReq.wellFormed_iff, reqXcvBitsT, State.capacitiesFit, LinkOp.shape, State.txBytes, ceil8]
    omega
  case tgtInit =>
    refine effect_of_issue (op := .tgtInit) h (fun hp => ?_)
    simp only [List.forall_mem_cons] at hp
    simp at hp
    simp [LinkReq.wellFormed_iff, reqTgtInit, State.timeoutInt, State.capacitiesFit, LinkOp.shape]
    omega
  case tgtSendb =>
    refine effect_of_issue (op := .tgtSendb) h (fun hp => ?_)
    simp only [List.forall_mem_cons] at hp
    simp at hp
    simp [LinkReq.wellFormed_iff, reqTgtSendb, State.dinN, State.timeoutInt, State.capacitiesFit, LinkOp.shape]
    omega
  case tgtRecvb =>
    refine effect_of_issue (op := .tgtRecvb) h (fun hp => ?_)
    simp only [List.forall_mem_cons] at hp
    simp at hp
    simp [LinkReq.wellFormed_iff, reqTgtRecvb, State.timeoutInt, State.capacitiesFit, LinkOp.shape]
    omega
  case tgtSendbits =>
    refine effect_of_issue (op := .tgtSendbits) h (fun hp => ?_)
    simp only [List.forall_mem_cons] at hp
    simp at hp
    simp [LinkReq.wellFormed_iff, reqTgtSendbits, State.capacitiesFit, LinkOp.shape, State.txBytes, ceil8]
    omega
  case tgtRecvbits =>
    refine effect_of_issue (op := .tgtRecvbits) h (fun hp => ?_)
    simp only [List.forall_mem_cons] at hp
    simp at hp
    simp [LinkReq.wellFormed_iff, reqTgtRecvbits, State.capacitiesFit, LinkOp.shape]
    omega
  case lnkOpen =>
    rw [execLnkOpen, whenIdle_eq_next] at h
    obtain ⟨hb, h⟩ := h
    split at h
    · cases h
      exact .onlyErr _ s _ hb (by simp)
    · rename_i ho
      by_cases hc : s.openCode = .success
      · simp only [hc, if_true] at h
        cases h
        exact .opened s hb (by simpa using ho) hc
      · simp only [hc, if_false] at h
        cases h
        exact .notOpened s hb (by simpa using ho) hc
  case lnkClose =>
    rw [execLnkClose, whenIdle_eq_next] at h
    obtain ⟨hb, h⟩ := h
    split at h <;> cases h
    · exact .closed s hb ‹_›
    · exact .onlyErr _ s _ hb (by simp)
  case abort =>
    rw [execAbort] at h
    split at h <;> rename_i hb <;> cases h
    · exact .aborted s hb
    · exact .abortIdle s (by simpa using hb)

/-- No operation faults. -/
theorem exec_ne_fault (i : Instr) (s : State) (r : Fault) : exec i s ≠ .fault r := by
  have idle : ∀ o : Outcome, o ≠ .fault r → whenIdle s o ≠ .fault r := by
    intro o ho; unfold whenIdle; split <;> simp_all
  have iss : ∀ op cs req, issue op cs req s ≠ .fault r := by
    intro op cs req
    unfold issue
    apply idle
    split <;> simp [raise]
  cases i <;> simp only [exec] <;> first
    | exact iss _ _ _
    | (apply idle; split <;> simp [raise])
    | (apply idle; simp)
    | simp [execAbort]

end Sys2Proof.Machine
end

