-- ==== Sys2Proof/Laws/PerInstr.lean ====
section
/-! SUPPORT. One lemma per instruction: its word is one its own row of the opcode table selects (R85). -/

namespace Sys2Proof.Laws.MatchesRow

/-- The word of a command is selected by a row of the opcode map that builds the command back; the word of `ABORT`,
which is written to another register, has bit 0 set (R83, R85). -/
def Statement (i : Instr) : Prop :=
  (portOf i = .cmd ∧ ∃ r ∈ opcodeMap, r.selects (encode i) = true ∧ r.build (imm8Of (encode i)) = i) ∨
    (portOf i = .abort ∧ (encode i).getLsbD 0 = true)

/-- A command of format N, by its row's place in the map. -/
theorem ofIndex (i : Instr) (k : Nat) (hp : portOf i = .cmd) (hk : k < opcodeMap.length)
    (hs : opcodeMap[k].selects (encode i) = true) (hb : opcodeMap[k].build (imm8Of (encode i)) = i) : Statement i :=
  .inl ⟨hp, _, List.getElem_mem hk, hs, hb⟩

theorem crcaInit : Statement .crcaInit := ofIndex _ 0 rfl (by decide) (by decide) rfl

theorem crcaUpd (b : Byte) : Statement (.crcaUpd b) :=
  ofIndex _ 1 rfl (by decide) (selects_formatI.2 ⟨b, rfl⟩) (congrArg Instr.crcaUpd (imm8Of_wordI _ b))

theorem crcaCalc : Statement .crcaCalc := ofIndex _ 2 rfl (by decide) (by decide) rfl

theorem crcaAppend : Statement .crcaAppend := ofIndex _ 3 rfl (by decide) (by decide) rfl

theorem crcbInit : Statement .crcbInit := ofIndex _ 4 rfl (by decide) (by decide) rfl

theorem crcbUpd (b : Byte) : Statement (.crcbUpd b) :=
  ofIndex _ 5 rfl (by decide) (selects_formatI.2 ⟨b, rfl⟩) (congrArg Instr.crcbUpd (imm8Of_wordI _ b))

theorem crcbCalc : Statement .crcbCalc := ofIndex _ 6 rfl (by decide) (by decide) rfl

theorem crcbAppend : Statement .crcbAppend := ofIndex _ 7 rfl (by decide) (by decide) rfl

theorem cascEnc : Statement .cascEnc := ofIndex _ 8 rfl (by decide) (by decide) rfl

theorem atsLochb : Statement .atsLochb := ofIndex _ 9 rfl (by decide) (by decide) rfl

theorem xcvBytes : Statement .xcvBytes := ofIndex _ 10 rfl (by decide) (by decide) rfl

theorem xcvBytesT : Statement .xcvBytesT := ofIndex _ 11 rfl (by decide) (by decide) rfl

theorem xcvBits : Statement .xcvBits := ofIndex _ 12 rfl (by decide) (by decide) rfl

theorem xcvBitsT : Statement .xcvBitsT := ofIndex _ 13 rfl (by decide) (by decide) rfl

theorem tgtInit : Statement .tgtInit := ofIndex _ 14 rfl (by decide) (by decide) rfl

theorem tgtSendb : Statement .tgtSendb := ofIndex _ 15 rfl (by decide) (by decide) rfl

theorem tgtRecvb : Statement .tgtRecvb := ofIndex _ 16 rfl (by decide) (by decide) rfl

theorem tgtSendbits : Statement .tgtSendbits := ofIndex _ 17 rfl (by decide) (by decide) rfl

theorem tgtRecvbits : Statement .tgtRecvbits := ofIndex _ 18 rfl (by decide) (by decide) rfl

theorem lnkOpen : Statement .lnkOpen := ofIndex _ 19 rfl (by decide) (by decide) rfl

theorem lnkClose : Statement .lnkClose := ofIndex _ 20 rfl (by decide) (by decide) rfl

theorem abort : Statement .abort := .inr ⟨rfl, rfl⟩

end Sys2Proof.Laws.MatchesRow
end

