-- ==== Sys2Proof/Laws/Step.lean ====
section
/-! SUPPORT. What a step does, move by move, and that every memory operation keeps the canonical form. -/

namespace Sys2Proof.Machine

/-! ### The step -/

/-- With a move to come, a step is that move in the state after it is taken off the list. -/
theorem step_of_events {s : State} {e : Event} {rest : List Event} (h : s.events = e :: rest) :
    step s = move e { s with events := rest } := by
  simp [step, nextMove, h]

/-- With no move to come, a step changes nothing (log 1). -/
theorem step_of_no_events {s : State} (h : s.events = []) : step s = .next s := by
  simp [step, nextMove, h]

/-- A write to `ABORT` acts exactly when bit 0 is set (R26, R214). -/
theorem writeAbort_eq (v : Word) (s : State) :
    writeAbort v s = if v.getLsbD 0 then exec .abort s else .next s := by
  simp only [writeAbort, decode, decodeAbort]
  cases v.getLsbD 0 <;> rfl

/-- The reserved indices are 18 to 127 (R41). -/
theorem Reg.ofIndex_none {r : BitVec 7} (h : 18 ≤ r.toNat) : Reg.ofIndex r = none := by
  simp [Reg.ofIndex, Reg.byIndex]; omega

theorem Reg.eq_of_ofIndex_abort : ∀ r : BitVec 7, Reg.ofIndex r = some .abort → r = 3 := by decide +kernel

theorem Reg.eq_of_ofIndex_cmd : ∀ r : BitVec 7, Reg.ofIndex r = some .cmd → r = 0 := by decide +kernel

/-- Every operation but `ABORT` is refused while `BUSY = 1` (R266). -/
theorem exec_of_busy {s : State} {i : Instr} (hb : s.busy = true) (hi : i ≠ .abort) :
    exec i s = .refused .writeWhileBusy := by
  cases i <;> first | exact absurd rfl hi | exact whenIdle_of_busy hb

/-- The word of an operation read from `CMD` is never `ABORT`'s (R83). -/
theorem decodeCmd_ne_abort {w : Word} {i : Instr} (h : decodeCmd w = .instr i) : i ≠ .abort := by
  rintro rfl
  obtain ⟨row, hr, -, hb⟩ := row_of_decodeCmd h
  rcases opcodeMap_formats hr with ⟨m, op, i, rfl, -, hp⟩ | ⟨m, op, f, rfl, -, hf⟩
  · simp only [formatN] at hb
    subst hb; cases hp
  · simp only [formatI] at hb
    have := (hf (imm8Of w)).2
    rw [hb] at this; cases this

/-- What a register write that answers a next state can do (R62). -/
theorem regWrite_next {r : BitVec 7} {v : Word} {s t : State} (h : regWrite r v s = .next t) :
    (r = 0 ∧ ∃ i, decodeCmd v = .instr i ∧ exec i s = .next t) ∨
    (r = 0 ∧ (∃ j, decodeCmd v = .rejected j) ∧ s.busy = false ∧ t = s.finish .notImplemented) ∨
    (r = 3 ∧ v.getLsbD 0 = true ∧ exec .abort s = .next t) ∨
    (r = 3 ∧ v.getLsbD 0 = false ∧ t = s) ∨
    (s.busy = false ∧ r ≠ 0 ∧ r ≠ 3 ∧ ∃ reg, t = s.writeReg v reg) := by
  unfold regWrite at h
  split at h
  · rename_i hn
    rw [whenIdle_eq_next] at h
    obtain ⟨hb, h⟩ := h; cases h
    refine .inr (.inr (.inr (.inr ⟨hb, ?_, ?_, .cmd, rfl⟩))) <;> rintro rfl <;> exact absurd hn (by decide)
  · rename_i hc
    have h0 := Reg.eq_of_ofIndex_cmd r hc
    simp only [writeCmd, decode] at h
    split at h
    · exact .inl ⟨h0, _, ‹_›, h⟩
    · rw [whenIdle_eq_next, raise_eq_next] at h
      exact .inr (.inl ⟨h0, ⟨_, ‹_›⟩, h.1, h.2.symm⟩)
  · rename_i hc
    have h3 := Reg.eq_of_ofIndex_abort r hc
    rw [writeAbort_eq] at h
    split at h
    · exact .inr (.inr (.inl ⟨h3, ‹_›, h⟩))
    · cases h; exact .inr (.inr (.inr (.inl ⟨h3, Bool.eq_false_iff.2 ‹¬ _›, rfl⟩)))
  · rename_i reg hc ha hreg
    rw [whenIdle_eq_next] at h
    obtain ⟨hb, h⟩ := h; cases h
    refine .inr (.inr (.inr (.inr ⟨hb, ?_, ?_, _, rfl⟩))) <;> rintro rfl
    · exact hc (Option.some.inj (hreg.symm.trans rfl))
    · exact ha (Option.some.inj (hreg.symm.trans rfl))

/-! ### The canonical form of memory -/

/-- Nothing is listed at reset. -/
theorem Memory.wf_reset : State.reset.mem.wf = true := rfl

/-- A byte write inside a buffer keeps the canonical form. -/
theorem State.wf_writeByte {s : State} {b : Buf} {i : Nat} {v : Byte} (hi : i < 512) (hm : s.mem.wf = true) :
    (s.writeByte b i v).mem.wf = true := by
  refine Memory.wf_write (a := b.base + i) ?_ hm
  have hb : 0x200 ≤ b.base ∧ b.base ≤ 0x800 := by cases b <;> decide
  simp only [isBufferAddress, Bool.and_eq_true, decide_eq_true_eq]
  omega

/-- Every operation keeps the canonical form. -/
theorem exec_keeps_mem_wf {i : Instr} {s t : State} (hm : s.mem.wf = true) (h : exec i s = .next t) :
    t.mem.wf = true := by
  cases exec_effect h <;> first
    | exact hm
    | exact State.wf_writeBuf ‹_› hm

/-- Every completion keeps the canonical form. -/
theorem complete_keeps_mem_wf {rsp : LinkRsp} {s t : State} (hm : s.mem.wf = true)
    (h : complete rsp s = .next t) : t.mem.wf = true := by
  rcases complete_next h with ⟨-, rfl⟩ | ⟨op, u, -, -, -, hr, rfl⟩
  · exact hm
  · show u.mem.wf = true
    generalize op.shape = sh at hr
    cases hr with
    | sent => exact hm
    | failedBytes => exact hm
    | failedBits => exact hm
    | bytes _ v k hc hv hk => exact State.wf_writeBuf hv hm
    | bits _ n k hc hn hk =>
      exact State.wf_writeBuf ((List.length_take_le _ _).trans hn)
        (State.wf_writeBuf ((List.length_take_le _ _).trans hn) hm)

/-- Every host transaction keeps the canonical form. -/
theorem hostTransaction_keeps_mem_wf {x : HostTxn} {s t : State} (hm : s.mem.wf = true)
    (h : hostTransaction x s = .next t) : t.mem.wf = true := by
  cases x with
  | regRead r => cases h; exact hm
  | bufRead b i => cases h; exact hm
  | regWrite r v =>
    rcases regWrite_next h with ⟨-, i, -, he⟩ | ⟨-, -, -, rfl⟩ | ⟨-, -, he⟩ | ⟨-, -, rfl⟩ | ⟨-, -, -, reg, rfl⟩
    · exact exec_keeps_mem_wf hm he
    · exact hm
    · exact exec_keeps_mem_wf hm he
    · exact hm
    · cases reg <;> exact hm
  | bufWrite b i v =>
    simp only [hostTransaction, bufWrite, whenIdle_eq_next] at h
    obtain ⟨-, h⟩ := h; cases h
    split
    · exact State.wf_writeByte i.isLt hm
    · exact hm

end Sys2Proof.Machine
end

