-- ==== Sys2Proof/Tests/Slice0.lean ====
section
/-! SUPPORT. Tests against the spec's own vectors (spec/95_test_vectors.md, cited by their ids), the well-formedness
smoke tests, and for each statement with hypotheses a state that meets them. -/

namespace Sys2Proof.Tests

open Sys2Proof.Machine

/-! ## Helpers -/

/-- Look at the next state an outcome gives, if it gives one. -/
def see {α : Type} (o : Outcome) (f : State → α) : Option α :=
  match o with
  | .next t => some (f t)
  | .fault _ => none
  | .refused _ => none

/-- The reset state with `DIN` filled and `DINLEN` set (`fill DIN, ...` of R90). -/
def filled (din : List Byte) : State :=
  { State.reset.writeBuf .din din with dinlen := BitVec.ofNat 16 din.length }

/-- The reset state after a successful `LNK.OPEN` ("open"). -/
def opened : State := { State.reset with status := 2 }

/-- A state in which the link command with this opcode is pending, with room for 4 bytes and for 12 bits. -/
def pendingAt (op : Byte) : State :=
  { State.reset with status := 3, pend := op, rxcap := 4, rxpcap := 4, rxcapbits := 12 }

/-- An open state with one byte to send and two to receive, as in T44-6. -/
def bitsReady : State :=
  { (opened.writeBuf .din [0x26]).writeBuf .pin [0x00] with
    dinlen := 1, pinlen := 1, txbits := 7, rxcap := 2, rxpcap := 2, rxcapbits := 16 }

/-- The first bytes of `DOUT`. -/
def dout (n : Nat) (t : State) : List Byte := t.bufBytes .dout n

/-- A state with one move of the host to come. -/
def atHost (t : HostTxn) (s : State) : State := { s with events := [.host t .success] }

/-! ## Well-formedness: each check refuses a term -/

theorem smoke_req_ok :
    LinkReq.wellFormed
      { op := .command 0x40, nbits := 4096, rxcap := 512, rxcapbits := 4096, timeout := -2147483648 } = true := by
  decide
theorem smoke_req_data : LinkReq.wellFormed { op := .command 0x40, data := List.replicate 513 0 } = false := by
  decide +kernel
theorem smoke_req_par : LinkReq.wellFormed { op := .command 0x42, par := List.replicate 513 0 } = false := by
  decide +kernel
theorem smoke_req_nbits : LinkReq.wellFormed { op := .command 0x42, nbits := 4097 } = false := by decide
theorem smoke_req_rxcap : LinkReq.wellFormed { op := .command 0x40, rxcap := 513 } = false := by decide
theorem smoke_req_rxcapbits : LinkReq.wellFormed { op := .command 0x42, rxcapbits := 4097 } = false := by decide
theorem smoke_req_timeout_low : LinkReq.wellFormed { op := .command 0x40, timeout := -2147483649 } = false := by decide
theorem smoke_req_timeout_high : LinkReq.wellFormed { op := .command 0x40, timeout := 2147483648 } = false := by decide
theorem smoke_rsp_ok :
    LinkRsp.wellFormedFor { code := .success, data := [1], nbits := 8 } .xcvBytes = true ∧
    LinkRsp.wellFormedFor { code := .success, data := [1, 2], par := [0, 1], nbits := 9 } .xcvBits = true ∧
    LinkRsp.wellFormedFor { code := .success } .tgtSendb = true := by decide
theorem smoke_rsp_bytes :
    LinkRsp.wellFormedFor { code := .success, data := [1], nbits := 7 } .tgtInit = false ∧
    LinkRsp.wellFormedFor { code := .success, data := [1], par := [1], nbits := 8 } .tgtRecvb = false := by decide
theorem smoke_rsp_bits :
    LinkRsp.wellFormedFor { code := .success, data := [1], par := [1, 1], nbits := 9 } .xcvBits = false ∧
    LinkRsp.wellFormedFor { code := .success, data := [1, 1], par := [1], nbits := 9 } .tgtRecvbits = false := by decide
theorem smoke_rsp_sendOnly :
    LinkRsp.wellFormedFor { code := .success, data := [1] } .tgtSendb = false ∧
    LinkRsp.wellFormedFor { code := .success, par := [1] } .tgtSendbits = false ∧
    LinkRsp.wellFormedFor { code := .success, nbits := 1 } .tgtSendb = false := by decide

/-! ## Decoding: every row's word written out from R85's table, and the rejections of T30 -/

theorem decode_crca : decode .cmd 0x00000010 = .instr .crcaInit ∧ decode .cmd 0x0000FF11 = .instr (.crcaUpd 0xFF) ∧
    decode .cmd 0x00000012 = .instr .crcaCalc ∧ decode .cmd 0x00000013 = .instr .crcaAppend := by decide
theorem decode_crcb : decode .cmd 0x00000020 = .instr .crcbInit ∧ decode .cmd 0x00001221 = .instr (.crcbUpd 0x12) ∧
    decode .cmd 0x00000022 = .instr .crcbCalc ∧ decode .cmd 0x00000023 = .instr .crcbAppend := by decide
theorem decode_casc_ats : decode .cmd 0x00000030 = .instr .cascEnc ∧ decode .cmd 0x00000031 = .instr .atsLochb := by
  decide
theorem decode_xcv : decode .cmd 0x00000040 = .instr .xcvBytes ∧ decode .cmd 0x00000041 = .instr .xcvBytesT ∧
    decode .cmd 0x00000042 = .instr .xcvBits ∧ decode .cmd 0x00000043 = .instr .xcvBitsT := by decide
theorem decode_tgt : decode .cmd 0x00000050 = .instr .tgtInit ∧ decode .cmd 0x00000051 = .instr .tgtSendb ∧
    decode .cmd 0x00000052 = .instr .tgtRecvb ∧ decode .cmd 0x00000053 = .instr .tgtSendbits ∧
    decode .cmd 0x00000054 = .instr .tgtRecvbits := by decide
theorem decode_lnk : decode .cmd 0x00000060 = .instr .lnkOpen ∧ decode .cmd 0x00000061 = .instr .lnkClose := by decide
theorem decode_abort : decode .abort 0x00000001 = .instr .abort ∧ decode .abort 0x00000003 = .instr .abort ∧
    decode .abort 0xFFFFFFFE = .rejected .abortBitClear := by decide
theorem decode_unlisted :
    ([0x00, 0x14, 0x44, 0x55, 0x62, 0xFF] : List Word).map (decode .cmd) =
      List.replicate 6 (.rejected .unlistedOpcode) := by decide
theorem decode_bits_set : decode .cmd 0x00000110 = .rejected .formatNBitsSet ∧
    decode .cmd 0x80000040 = .rejected .formatNBitsSet ∧ decode .cmd 0x00010011 = .rejected .formatIBitsSet := by decide
theorem table_words : decodeTableWord 32 0x3411 = some (.crcaUpd 0x34) ∧ decodeTableWord 32 0x61 = some .lnkClose ∧
    decodeTableWord 8 1 = some .abort ∧ decodeTableWord 32 1 = some .abort ∧ decodeTableWord 32 0x14 = none := by decide
theorem table_word_runs : see (step (State.reset.withFetchWord 32 0x11)) State.acca = some 0x51FE := by
  decide +kernel

/-! ## Operations -/

/-- T40-3, first word. -/
theorem test_crcaInit : see (exec .crcaInit { State.reset with acca := 0x1234, err := 8 })
    (fun t => (t.acca, t.err)) = some (0x6363, 0) := by decide
/-- T40-3 and T40-2. -/
theorem test_crcaUpd : see (exec (.crcaUpd 0x12) State.reset) State.acca = some 0x626D ∧
    see (exec (.crcaUpd 0x34) { State.reset with acca := 0x626D }) State.acca = some 0xCF26 := by decide
/-- S1, T40-1. -/
theorem test_crcaCalc : see (exec .crcaCalc (filled [0x00])) State.acca = some 0x51FE ∧
    see (exec .crcaCalc (filled [0x31, 0x32, 0x33, 0x34, 0x35, 0x36, 0x37, 0x38, 0x39])) State.acca = some 0xBF05 := by
  decide
/-- T40-6. -/
theorem test_crcaCalc_capacity : see (exec .crcaCalc { State.reset with dinlen := 513, acca := 0xCD57 })
    (fun t => (t.err, t.acca)) = some (2, 0xCD57) := by decide
/-- T40-5. -/
theorem test_crcaAppend : see (exec .crcaAppend (filled [0x50, 0x00]))
    (fun t => (dout 4 t, t.doutlen, t.acca, t.err)) = some ([0x50, 0x00, 0x57, 0xCD], 4, 0xCD57, 0) := by decide
/-- T40-5. -/
theorem test_crcaAppend_capacity : see (exec .crcaAppend { State.reset with dinlen := 511, acca := 0x1234, doutlen := 9 })
    (fun t => (t.err, t.acca, t.doutlen)) = some (2, 0x1234, 9) := by decide
/-- T41-3. -/
theorem test_crcbInit : see (exec .crcbInit { State.reset with accb := 0 }) (fun t => (t.accb, t.acca)) =
    some (0xFFFF, 0x6363) := by decide
/-- T41-2. -/
theorem test_crcbUpd : see (exec (.crcbUpd 0x01) State.reset) State.accb = some 0x1E0E ∧
    see (exec (.crcbUpd 0x02) { State.reset with accb := 0x1E0E }) State.accb = some 0xCA72 := by decide
/-- S2, T41-1. -/
theorem test_crcbCalc : see (exec .crcbCalc { State.reset with accb := 0 }) State.accb = some 0xFFFF ∧
    see (exec .crcbCalc (filled [0x12, 0x34])) State.accb = some 0x213E := by decide
/-- T41-4. -/
theorem test_crcbAppend : see (exec .crcbAppend (filled [1, 2, 3]))
    (fun t => (dout 5 t, t.doutlen, t.accb)) = some ([1, 2, 3, 0xC4, 0x62], 5, 0x62C4) := by decide
/-- S6, S7. -/
theorem test_cascEnc_tags :
    see (exec .cascEnc (filled [4, 0x11, 0x22, 0x33, 0x44, 0x55, 0x66])) (fun t => (t.doutlen, dout 8 t)) =
      some (8, [0x88, 4, 0x11, 0x22, 0x33, 0x44, 0x55, 0x66]) ∧
    see (exec .cascEnc (filled [1, 2, 3, 4, 5, 6, 7, 8, 9, 10])) (fun t => (t.doutlen, dout 12 t)) =
      some (12, [0x88, 1, 2, 3, 0x88, 4, 5, 6, 7, 8, 9, 10]) := by decide
/-- S5, T42. -/
theorem test_cascEnc_copies : see (exec .cascEnc (filled [0x88, 1, 2, 3])) (fun t => (t.doutlen, dout 4 t)) =
    some (4, [0x88, 1, 2, 3]) := by decide
/-- S8, T43. -/
theorem test_atsLochb_some :
    see (exec .atsLochb (filled [0x10, 0, 0, 0xAA])) (fun t => (t.hboff, t.status, t.doutlen, dout 2 t)) =
      some (2, 4, 2, [0x00, 0xAA]) ∧
    see (exec .atsLochb (filled [0x75, 0x77, 0x81, 2, 0x80])) (fun t => (t.hboff, t.doutlen, dout 2 t)) =
      some (3, 2, [0x02, 0x80]) := by decide
/-- S10, T43. -/
theorem test_atsLochb_none :
    see (exec .atsLochb { filled [0x10, 0x20, 0x40, 0xAA] with status := 6 }) (fun t => (t.hboff, t.status, t.doutlen)) =
      some (4, 2, 0) ∧
    see (exec .atsLochb State.reset) (fun t => (t.hboff, t.hbvalid, t.err)) = some (0, false, 0) := by decide
/-- T44-1. -/
theorem test_xcvBytes_issue :
    see (exec .xcvBytes { filled [0x30, 0, 2, 0xA8] with status := 2, rxcap := 18, timeout := 500 })
      (fun t => (t.status, t.toLink)) =
    some (3, [{ op := .command 0x40, data := [0x30, 0, 2, 0xA8], nbits := 32, rxcap := 18, timeout := 500 }]) := by
  decide
/-- T44-3: six bytes answered, capacity four. -/
theorem test_xcvBytes_overflow :
    see (complete { code := .success, data := [0x11, 0x22, 0x33, 0x44, 0x55, 0x66], nbits := 48 }
        ((pendingAt 0x40).writeBuf .dout [0xEE, 0xEE, 0xEE, 0xEE, 0xEE, 0xEE]))
      (fun t => (t.err, t.doutlen, dout 6 t, t.status)) =
    some (5, 4, [0x11, 0x22, 0x33, 0x44, 0xEE, 0xEE], 2) := by decide
/-- T44-11. -/
theorem test_xcvBytesT_issue :
    see (exec .xcvBytesT { filled [0x30] with status := 2, rxcap := 18, cycles := 7, timeout := 0x80000000 })
      (fun t => t.toLink) =
    some [{ op := .command 0x41, data := [0x30], nbits := 8, rxcap := 18, cycles := 7 }] := by decide
/-- T44-11: `CYCLES` is written although the command overflowed, and kept on a failure. -/
theorem test_xcvBytesT_cycles :
    see (complete { code := .success, data := [4, 0], nbits := 16, cycles := 7000 }
      { pendingAt 0x41 with rxcap := 1, cycles := 100 }) (fun t => (t.err, t.doutlen, t.cycles)) = some (5, 1, 7000) ∧
    see (complete { code := .timeout, cycles := 7000 } { pendingAt 0x41 with cycles := 100 })
      (fun t => (t.err, t.cycles)) = some (6, 100) := by decide
/-- T44-6. -/
theorem test_xcvBits_issue : see (exec .xcvBits bitsReady) (fun t => t.toLink) =
    some [{ op := .command 0x42, data := [0x26], par := [0], nbits := 7, rxcap := 2, rxcapbits := 16 }] := by decide
/-- T44-9: 16 bits answered, capacity 12. -/
theorem test_xcvBits_overflow :
    see (complete { code := .success, data := [4, 0], par := [0, 1], nbits := 16 } (pendingAt 0x42))
      (fun t => (t.err, t.rxbits, t.poutlen, dout 2 t ++ t.bufBytes .pout 2)) =
    some (5, 12, 2, [4, 0, 0, 1]) := by decide
/-- T44-12. -/
theorem test_xcvBitsT_issue : see (exec .xcvBitsT bitsReady) (fun t => (t.pend, t.toLink)) =
    some (0x43, [{ op := .command 0x43, data := [0x26], par := [0], nbits := 7, rxcap := 2, rxcapbits := 16 }]) := by
  decide
/-- T44-12. -/
theorem test_xcvBitsT_cycles :
    see (complete { code := .success, data := [4], par := [1], nbits := 8, cycles := 0xA10 } (pendingAt 0x43))
      (fun t => (t.err, t.rxbits, t.cycles)) = some (0, 8, 0xA10) := by decide
/-- T45-1: `DINLEN` is not read. -/
theorem test_tgtInit_issue : see (exec .tgtInit { opened with rxcap := 64, dinlen := 9999 }) (fun t => t.toLink) =
    some [{ op := .command 0x50, rxcap := 64 }] := by decide
/-- T45-2: abort, then the link answers `Aborted`. -/
theorem test_tgtInit_aborted :
    see (exec .abort (pendingAt 0x50)) (fun t => t.status) = some 0xB ∧
    see (complete { code := .aborted } { pendingAt 0x50 with status := 0xB }) (fun t => (t.status, t.err, t.doutlen)) =
      some (2, 7, 0) := by decide
/-- T45-3. -/
theorem test_tgtSendb_issue :
    see (exec .tgtSendb { filled [0x90, 0] with status := 2, timeout := 0xFFFFFFFF, rxcap := 9999 }) (fun t => t.toLink) =
    some [{ op := .command 0x51, data := [0x90, 0], nbits := 16, timeout := -1 }] := by decide
/-- T45-3: a send-only command zeroes no length. -/
theorem test_tgtSendb_failure : see (complete { code := .targetReleased } { pendingAt 0x51 with doutlen := 5 })
    (fun t => (t.err, t.doutlen, t.status)) = some (9, 5, 2) := by decide
/-- T45-4. -/
theorem test_tgtRecvb_timeout : see (exec .tgtRecvb { opened with rxcap := 4, timeout := 0xFFFFFFF0 })
    (fun t => (t.err, t.status, t.toLink)) = some (2, 2, []) := by decide
/-- T45-4. -/
theorem test_tgtRecvb_overflow :
    see (complete { code := .success, data := [0, 0xA4, 4, 0, 7], nbits := 40 } (pendingAt 0x52))
      (fun t => (t.err, t.doutlen, dout 4 t)) = some (5, 4, [0, 0xA4, 4, 0]) := by decide
/-- T45-5: receive registers and `TIMEOUT` are not read. -/
theorem test_tgtSendbits_issue :
    see (exec .tgtSendbits { bitsReady with rxcap := 3, rxpcap := 9, rxcapbits := 9999, timeout := 0x80000000 })
      (fun t => t.toLink) = some [{ op := .command 0x53, data := [0x26], par := [0], nbits := 7 }] := by decide
/-- T45-5. -/
theorem test_tgtSendbits_parity : see (exec .tgtSendbits { bitsReady with pinlen := 0 }) (fun t => (t.err, t.status)) =
    some (2, 2) := by decide
/-- T45-6: send registers are not read. -/
theorem test_tgtRecvbits_issue :
    see (exec .tgtRecvbits { bitsReady with rxcap := 1, rxpcap := 1, rxcapbits := 7, dinlen := 600, txbits := 9999 })
      (fun t => t.toLink) = some [{ op := .command 0x54, rxcap := 1, rxcapbits := 7 }] := by decide
/-- T45-6. -/
theorem test_tgtRecvbits_overflow :
    see (complete { code := .success, data := [0x26], par := [0], nbits := 8 } { pendingAt 0x54 with rxcapbits := 7 })
      (fun t => (t.err, t.rxbits, t.doutlen, t.poutlen)) = some (5, 7, 1, 1) := by decide
/-- T46-1. -/
theorem test_lnkOpen : see (exec .lnkOpen State.reset) (fun t => (t.status, t.err)) = some (2, 0) ∧
    see (exec .lnkOpen { State.reset with openCode := .noSuchDevice }) (fun t => (t.status, t.err)) = some (0, 4) := by
  decide
/-- T46-2. -/
theorem test_lnkOpen_twice : see (exec .lnkOpen opened) (fun t => (t.err, t.status, t.toLink)) = some (2, 2, []) := by
  decide
/-- T46-3, S12. -/
theorem test_lnkClose : see (exec .lnkClose { opened with status := 6 }) (fun t => (t.status, t.err)) = some (4, 0) ∧
    see (exec .lnkClose State.reset) (fun t => (t.err, t.toLink)) = some (0, []) := by decide
/-- T46-5, T46-6. -/
theorem test_abort : see (exec .abort opened) (fun t => (t.status, t.toLink)) = some (2, []) ∧
    see (exec .abort (pendingAt 0x52)) (fun t => (t.status, t.toLink)) = some (0xB, [{ op := .abort }]) := by decide

/-! ## The host port -/

/-- T20: the low 16 bits are kept. -/
theorem test_regWrite_truncates : see (step (atHost (.regWrite 6 0x12345) State.reset)) (fun t => t.regRead 6) =
    some 0x2345 := by decide
/-- T20: a read-only register keeps its value. -/
theorem test_regWrite_readOnly : see (step (atHost (.regWrite 4 0x1234) State.reset)) (fun t => t.regRead 4) =
    some 0x6363 := by decide
/-- T20: a buffer's last byte. -/
theorem test_bufWrite : see (step (atHost (.bufWrite 0 511 0x5A) State.reset)) (fun t => t.bufByte .din 511) =
    some 0x5A := by decide
/-- T20: the byte-address view of `ACCA`. -/
theorem test_view : State.viewByte { State.reset with acca := 0xCD57 } 0x10 = some 0x57 ∧
    State.viewByte { State.reset with acca := 0xCD57 } 0x11 = some 0xCD ∧ State.viewByte State.reset 0x12 = some 0 ∧
    State.viewByte State.reset 0xA00 = none := by decide
/-- T60: an illegal word on a closed device. -/
theorem test_illegal : see (step (atHost (.regWrite 0 0x00010040) State.reset)) State.err = some 8 := by decide
/-- T70-1: what a reset leaves of a pending command. -/
theorem test_reset : see (step { pendingAt 0x52 with events := [.reset] }) (fun t => (t.status, t.rxcap, t.acca)) =
    some (0, 0, 0x6363) := by decide
/-- T70-2: reads are accepted while `BUSY = 1`. -/
theorem test_read_while_busy : see (step (atHost (.regRead 1) (pendingAt 0x52))) (fun t => t.toHost) =
    some [.word 3] := by decide
/-- A step with no move to come changes nothing (log 1). -/
theorem test_idle : step State.reset = .next State.reset := rfl

/-! ## Witnesses: the hypotheses of each statement are met, clause by clause, at the ends of their ranges -/

/-- The next state of an outcome that has one. -/
def nextOf (o : Outcome) : State :=
  match o with
  | .next t => t
  | .fault _ => State.reset
  | .refused _ => State.reset

/-- A state with one move of any agent to come. -/
def atEvent (e : Event) (s : State) : State := { s with events := [e] }

theorem witness_DecodeInvertsEncode :
    Instr.wellFormed (.crcaUpd 0x00) = true ∧ Instr.wellFormed (.crcbUpd 0xFF) = true ∧
    Instr.wellFormed .abort = true := by decide

theorem witness_OnlyOwnWordsDecode :
    decode .cmd 0xFF21 = .instr (.crcbUpd 0xFF) ∧ decode .abort 0xFFFFFFFF = .instr .abort := by decide

theorem witness_OpcodeRowsNeverOverlap :
    (opcodeMap[0]'(by decide)).selects 0x10 = true ∧ (opcodeMap[20]'(by decide)).selects 0x61 = true := by decide

theorem witness_IllegalWordOnlySetsErr :
    ((∀ r ∈ opcodeMap, r.pattern ≠ (opOf 0x14).setWidth 32) ∧
      (0x110 : Word).extractLsb' 8 24 ≠ 0 ∧ opOf 0x110 ≠ 0x11 ∧ opOf 0x110 ≠ 0x21 ∧
      (0x10011 : Word).extractLsb' 16 16 ≠ 0) ∧
    (atHost (.regWrite 0 0x14) State.reset).busy = false ∧ Illegal 0x14 :=
  ⟨by decide, by decide, by unfold Illegal; decide⟩

theorem witness_StepRunsDecodedOperation :
    decode .cmd 0x61 = .instr .lnkClose ∧ (atHost (.regWrite 0 0x61) opened).events = [.host (.regWrite 0 0x61) .success] ∧
    (atEvent (.abortWrite 1) opened).events = [.abortWrite 1] ∧ decodeTableWord 32 0xFF11 = some (.crcaUpd 0xFF) := by
  decide

theorem witness_ReadsReturnValueAndChangeNothing :
    (atHost (.regRead 17) opened).events = [.host (.regRead 17) .success] ∧
    (atHost (.bufRead 3 511) opened).events = [.host (.bufRead 3 511) .success] := by decide

theorem witness_ReservedIndicesAreInert :
    18 ≤ (18 : BitVec 7).toNat ∧ 18 ≤ (127 : BitVec 7).toNat ∧
    (atHost (.regWrite 127 5) State.reset).busy = false ∧
    (atHost (.regRead 18) State.reset).events = [.host (.regRead 18) .success] := by decide

theorem witness_RegWriteStoresLowBits :
    (atHost (.regWrite 6 0x12345) State.reset).busy = false ∧
    (atHost (.regWrite 6 0x12345) State.reset).events = [.host (.regWrite 6 0x12345) .success] ∧
    (17 : BitVec 7) ∈ ([1, 2, 4, 5, 8, 9, 11, 17] : List (BitVec 7)) := by decide

theorem witness_BufWriteStoresOneByte :
    (atHost (.bufWrite 1 511 7) State.reset).busy = false ∧
    (atHost (.bufWrite 2 0 7) State.reset).busy = false ∧
    (atHost (.bufWrite 2 0 7) State.reset).events = [.host (.bufWrite 2 0 7) .success] := by decide

theorem witness_WritesWhileBusyAreRefused :
    (atHost (.regWrite 0 0x10) (pendingAt 0x40)).busy = true ∧ (atHost (.bufWrite 0 0 1) (pendingAt 0x40)).busy = true ∧
    Instr.crcaInit ≠ .abort := by decide

theorem witness_ByteViewLayout : 0 < 4 ∧ 3 < 4 ∧ 0 < 512 ∧ 511 < 512 ∧ 0xA00 ≤ 0xA00 := by decide

theorem witness_ResetAcceptedInEveryState :
    (atEvent .reset (pendingAt 0x40)).events = [.reset] ∧ (pendingAt 0x40).busy = true := by decide

theorem witness_ResetAbandonsPendingCommand :
    ({ pendingAt 0x40 with events := [.reset, .link { code := .success }] } : State).events =
      [.reset, .link { code := .success }] := by decide

/-- A pending receive that the link answers: the invariant holds, and its step completes the command. -/
theorem witness_StepKeepsInvariant :
    (atEvent (.link { code := .success, data := [1], nbits := 8 }) (pendingAt 0x52)).Inv ∧
    step (atEvent (.link { code := .success, data := [1], nbits := 8 }) (pendingAt 0x52)) =
      .next (nextOf (step (atEvent (.link { code := .success, data := [1], nbits := 8 }) (pendingAt 0x52)))) := by
  refine ⟨?_, rfl⟩
  constructor
  case pending => exact fun _ => ⟨.tgtRecvb, by decide, by show (4#16).toNat ≤ 512; decide⟩
  all_goals decide

theorem witness_NoFaultUnderInvariant :
    (atEvent (.link { code := .success, data := [1], nbits := 8 }) (pendingAt 0x52)).Inv :=
  witness_StepKeepsInvariant.1

theorem witness_CrcDetectsOneChangedByte : (0x00 : Byte) ≠ 0x01 := by decide

/-- The state the residue law copies to: the appended sequence in `DIN`. -/
theorem witness_AppendedCrcHasZeroResidue :
    (exec .crcaAppend (filled [0x50, 0]) = .next (nextOf (exec .crcaAppend (filled [0x50, 0]))) ∧
      (nextOf (exec .crcaAppend (filled [0x50, 0]))).err = 0 ∧
      (filled [0x50, 0, 0x57, 0xCD]).busy = false ∧
      (filled [0x50, 0, 0x57, 0xCD]).dinlen = (nextOf (exec .crcaAppend (filled [0x50, 0]))).doutlen ∧
      ∀ i, i < 4 → (filled [0x50, 0, 0x57, 0xCD]).bufByte .din i =
        (nextOf (exec .crcaAppend (filled [0x50, 0]))).bufByte .dout i) ∧
    exec .crcbAppend (filled [1, 2, 3]) = .next (nextOf (exec .crcbAppend (filled [1, 2, 3]))) ∧
      (nextOf (exec .crcbAppend (filled [1, 2, 3]))).err = 0 ∧
      (filled [1, 2, 3, 0xC4, 0x62]).dinlen = (nextOf (exec .crcbAppend (filled [1, 2, 3]))).doutlen ∧
      ∀ i, i < 5 → (filled [1, 2, 3, 0xC4, 0x62]).bufByte .din i =
        (nextOf (exec .crcbAppend (filled [1, 2, 3]))).bufByte .dout i :=
  ⟨⟨rfl, by decide, by decide, by decide, by decide⟩, rfl, by decide, by decide, by decide⟩

theorem witness_StreamingEqualsCalc :
    State.reset.busy = false ∧ State.reset.dinlen.toNat ≤ 512 ∧
    ({ State.reset with dinlen := 512 } : State).dinlen.toNat ≤ 512 := by decide

/-- For `CrcaInitAndUpd` and `CrcbInitAndUpd`. -/
theorem witness_InitAndUpd : opened.busy = false := by decide

/-- For `CrcaCalcResult`, `CrcbCalcResult` and `CascEncResult`: the longest legal `DINLEN` and the next one. -/
theorem witness_Calc_CascEnc :
    State.reset.busy = false ∧ ({ State.reset with dinlen := 512 } : State).dinlen.toNat ≤ 512 ∧
    512 < ({ State.reset with dinlen := 513 } : State).dinlen.toNat := by decide

/-- For `CrcaAppendResult` and `CrcbAppendResult`. -/
theorem witness_Append :
    State.reset.busy = false ∧ ({ State.reset with dinlen := 510 } : State).dinlen.toNat ≤ 510 ∧
    510 < ({ State.reset with dinlen := 511 } : State).dinlen.toNat := by decide

theorem witness_CascadeIdempotentAndReversible :
    ([4, 0x11, 0x22, 0x33, 0x44, 0x55, 0x66] : List Byte).length = 7 ∧
    ([1, 2, 3, 4, 5, 6, 7, 8, 9, 10] : List Byte).length = 10 := by decide

theorem witness_AtsLochbResult :
    State.reset.busy = false ∧ State.reset.dinlen = 0 ∧
    (0 < ({ State.reset with dinlen := 1 } : State).dinlen.toNat ∧
      ({ State.reset with dinlen := 512 } : State).dinlen.toNat ≤ 512) ∧
    512 < ({ State.reset with dinlen := 513 } : State).dinlen.toNat := by decide

theorem witness_HistoricalBytesByLength :
    ([] : List Byte).length = 0 ∧ 0 < ([0x10] : List Byte).length ∧ ([0x10] : List Byte).length = 1 ∧
    ([0x10, 0x20, 0x40] : List Byte).length = 3 ∧ 4 ≤ ([0x10, 0, 0, 0xAA] : List Byte).length ∧
    historicalBytes [0x10, 0, 0, 0xAA] = some [0x00, 0xAA] ∧
    ((0xEF : Byte) &&& 0x10 = 0x00 &&& 0x10 ∧ (0xDF : Byte) &&& 0x20 = 0x00 &&& 0x20 ∧
      (0xBF : Byte) &&& 0x40 = 0x00 &&& 0x40) := by decide

/-- For `XcvBytesIssueAndCompletion`: closed; each illegal operand just beyond its range; every operand at the end of
its range; a response while pending. -/
theorem witness_XcvBytes :
    (State.reset.busy = false ∧ State.reset.isOpen = false) ∧ (opened.busy = false ∧ opened.isOpen = true) ∧
    512 < ({ opened with dinlen := 513 } : State).dinlen.toNat ∧
    512 < ({ opened with rxcap := 513 } : State).rxcap.toNat ∧
    ({ opened with timeout := 0xFFFFFFFE } : State).timeout.toInt < -1 ∧
    (({ opened with dinlen := 512 } : State).dinlen.toNat ≤ 512 ∧
      ({ opened with rxcap := 512 } : State).rxcap.toNat ≤ 512 ∧
      -1 ≤ ({ opened with timeout := 0xFFFFFFFF } : State).timeout.toInt) ∧
    (pendingAt 0x40).busy = true ∧ (pendingAt 0x40).pend = 0x40 ∧
    LinkRsp.hasShape { code := .success, data := [1], nbits := 8 } .bytes = true := by decide

/-- For `XcvBytesTIssueAndCompletion`. -/
theorem witness_XcvBytesT :
    (State.reset.busy = false ∧ State.reset.isOpen = false) ∧ (opened.busy = false ∧ opened.isOpen = true) ∧
    512 < ({ opened with dinlen := 513 } : State).dinlen.toNat ∧
    (({ opened with dinlen := 512, rxcap := 512 } : State).dinlen.toNat ≤ 512 ∧
      ({ opened with dinlen := 512, rxcap := 512 } : State).rxcap.toNat ≤ 512) ∧
    (pendingAt 0x41).busy = true ∧ (pendingAt 0x41).pend = 0x41 ∧
    LinkRsp.hasShape { code := .success, cycles := 9 } .bytes = true := by decide

/-- For `XcvBitsIssueAndCompletion` and `XcvBitsTIssueAndCompletion`, and the two bit commands of target mode: the
preconditions with equality, and each of them just missed. -/
theorem witness_Bits :
    (bitsReady.busy = false ∧ ({ bitsReady with status := 2 } : State).isOpen = true ∧
      State.reset.isOpen = false) ∧
    (bitsReady.dinlen.toNat ≤ 512 ∧ bitsReady.pinlen = bitsReady.dinlen ∧
      ({ bitsReady with txbits := 8 } : State).txbits.toNat ≤ bitsReady.dinlen.toNat * 8 ∧
      bitsReady.rxcap.toNat ≤ 512 ∧ bitsReady.rxpcap = bitsReady.rxcap ∧
      bitsReady.rxcapbits.toNat ≤ bitsReady.rxcap.toNat * 8) ∧
    (512 < ({ bitsReady with dinlen := 513 } : State).dinlen.toNat ∧
      512 < ({ bitsReady with pinlen := 513 } : State).pinlen.toNat ∧
      512 < ({ bitsReady with rxcap := 513 } : State).rxcap.toNat ∧
      512 < ({ bitsReady with rxpcap := 513 } : State).rxpcap.toNat ∧
      ({ bitsReady with pinlen := 0 } : State).pinlen ≠ bitsReady.dinlen ∧
      bitsReady.dinlen.toNat * 8 < ({ bitsReady with txbits := 9 } : State).txbits.toNat ∧
      ({ bitsReady with rxpcap := 1 } : State).rxpcap ≠ bitsReady.rxcap ∧
      bitsReady.rxcap.toNat * 8 < ({ bitsReady with rxcapbits := 17 } : State).rxcapbits.toNat) ∧
    ((pendingAt 0x42).busy = true ∧ (pendingAt 0x42).pend = 0x42 ∧ (pendingAt 0x43).pend = 0x43 ∧
      (pendingAt 0x53).pend = 0x53 ∧ (pendingAt 0x54).pend = 0x54) ∧
    LinkRsp.hasShape { code := .success, data := [4, 0], par := [0, 1], nbits := 9 } .bits = true ∧
    LinkRsp.hasShape { code := .success } .sendOnly = true := by decide

/-- For `TgtInitIssueAndCompletion`, `TgtSendbIssueAndCompletion` and `TgtRecvbIssueAndCompletion`. -/
theorem witness_TgtBytes :
    (State.reset.busy = false ∧ State.reset.isOpen = false) ∧ (opened.busy = false ∧ opened.isOpen = true) ∧
    512 < ({ opened with rxcap := 513 } : State).rxcap.toNat ∧
    512 < ({ opened with dinlen := 513 } : State).dinlen.toNat ∧
    ({ opened with timeout := 0xFFFFFFFE } : State).timeout.toInt < -1 ∧
    (({ opened with rxcap := 512, dinlen := 512 } : State).rxcap.toNat ≤ 512 ∧
      ({ opened with rxcap := 512, dinlen := 512 } : State).dinlen.toNat ≤ 512 ∧
      -1 ≤ ({ opened with timeout := 0xFFFFFFFF } : State).timeout.toInt) ∧
    ((pendingAt 0x50).busy = true ∧ (pendingAt 0x50).pend = 0x50 ∧ (pendingAt 0x51).pend = 0x51 ∧
      (pendingAt 0x52).pend = 0x52) ∧
    LinkRsp.hasShape { code := .timeout } .bytes = true ∧
    LinkRsp.hasShape { code := .timeout } .sendOnly = true := by decide

/-- Capacity 4: a failure, exactly four bytes, five bytes. -/
theorem witness_RecvBytesDelivers :
    LinkCode.timeout ≠ .success ∧ (pendingAt 0x52).rxcap.toNat ≤ 512 ∧
    ([1, 2, 3, 4] : List Byte).length ≤ (pendingAt 0x52).rxcap.toNat ∧
    (pendingAt 0x52).rxcap.toNat < ([1, 2, 3, 4, 5] : List Byte).length := by decide

/-- Capacity 12 bits: a failure, exactly 12 bits, 13 bits. -/
theorem witness_RecvBitsDelivers :
    LinkCode.timeout ≠ .success ∧ (pendingAt 0x54).rxcapbits.toNat ≤ 4096 ∧
    LinkRsp.hasShape { code := .success, data := [4, 0], par := [0, 1], nbits := 12 } .bits = true ∧
    12 ≤ (pendingAt 0x54).rxcapbits.toNat ∧
    LinkRsp.hasShape { code := .success, data := [4, 0], par := [0, 1], nbits := 13 } .bits = true ∧
    (pendingAt 0x54).rxcapbits.toNat < 13 := by decide

theorem witness_LinkFailurePassedThrough :
    ((pendingAt 0x54).busy = true ∧ (pendingAt 0x54).pend = LinkOp.tgtRecvbits.opcode ∧
      LinkRsp.hasShape { code := .timeout } LinkOp.tgtRecvbits.shape = true ∧ LinkCode.timeout ≠ .success) ∧
    (State.reset.busy = false ∧ State.reset.isOpen = false ∧
      ({ State.reset with openCode := .noSuchDevice } : State).openCode ≠ .success) := by decide

theorem witness_CyclesReturnedByTimedCommands :
    (pendingAt 0x43).busy = true ∧ (pendingAt 0x43).pend = LinkOp.xcvBitsT.opcode ∧
    LinkRsp.hasShape { code := .success, cycles := 7000 } LinkOp.xcvBitsT.shape = true ∧
    (pendingAt 0x43).capacitiesFit LinkOp.xcvBitsT.shape :=
  ⟨by decide, by decide, by decide, show (12#16).toNat ≤ 4096 by decide⟩

theorem witness_UndeliverableResponses :
    (atEvent (.link { code := .success }) State.reset).busy = false ∧
    (atEvent (.link { code := .success, nbits := 1 }) (pendingAt 0x51)).busy = true ∧
    (pendingAt 0x51).pend = LinkOp.tgtSendb.opcode ∧
    LinkRsp.hasShape { code := .success, nbits := 1 } LinkOp.tgtSendb.shape = false := by decide

/-- For `LnkOpenResult` and `LnkCloseResult`. -/
theorem witness_Session :
    (opened.busy = false ∧ opened.isOpen = true) ∧
    (State.reset.busy = false ∧ State.reset.isOpen = false ∧
      ({ State.reset with openCode := .success } : State).openCode = .success ∧
      ({ State.reset with openCode := .noSuchDevice } : State).openCode ≠ .success) := by decide

/-- For `AbortForwardsWhilePending` and `AbortDoesNotChangeCompletion`. -/
theorem witness_Abort :
    (pendingAt 0x52).busy = true ∧ opened.busy = false ∧
    (atEvent (.abortWrite 0xFFFFFFFE) opened).events = [.abortWrite 0xFFFFFFFE] ∧
    (atHost (.regWrite 3 1) opened).events = [.host (.regWrite 3 1) .success] ∧
    (0xFFFFFFFE : Word).getLsbD 0 = false := by decide

theorem witness_DeviceClosedExactlyForLinkCommands :
    State.reset.busy = false ∧ State.reset.isOpen = false ∧ isCompute .atsLochb = true ∧
    isCompute (.crcaUpd 0) = true := by decide

theorem witness_OpenChangesOnlyBySession :
    (exec .tgtRecvb opened = .next (nextOf (exec .tgtRecvb opened)) ∧ Instr.tgtRecvb ≠ .lnkOpen ∧
      Instr.tgtRecvb ≠ .lnkClose) ∧
    (step (atHost (.regWrite 0 0x60) State.reset) = .next (nextOf (step (atHost (.regWrite 0 0x60) State.reset))) ∧
      (nextOf (step (atHost (.regWrite 0 0x60) State.reset))).isOpen ≠ State.reset.isOpen) :=
  ⟨⟨rfl, by decide, by decide⟩, rfl, by decide⟩

/-- For the statements about every command step: an operation, an abort, a completion. -/
theorem witness_CommandStep :
    CommandStep (filled [1, 2, 3]) (nextOf (exec .crcaAppend (filled [1, 2, 3]))) ∧
    CommandStep (pendingAt 0x52) (nextOf (exec .abort (pendingAt 0x52))) ∧
    CommandStep (pendingAt 0x52)
      (nextOf (complete { code := .success, data := [1], nbits := 8 } (pendingAt 0x52))) :=
  ⟨.inl ⟨.crcaAppend, rfl⟩, .inl ⟨.abort, rfl⟩, .inr ⟨{ code := .success, data := [1], nbits := 8 }, rfl⟩⟩

/-- For `CommandsNeverWriteInputBuffers` and `BytesAboveLengthKept`, with `witness_CommandStep`: the ends of the
address and index ranges. -/
theorem witness_BufferRanges :
    (0x200 ≤ 0x200 ∧ 0x5FF < 0x600) ∧ 511 < 512 ∧
    (nextOf (exec .crcaAppend (filled [1, 2, 3]))).doutlen.toNat ≤ 5 ∧
    (nextOf (exec .crcaAppend (filled [1, 2, 3]))).poutlen.toNat ≤ 0 := by decide

/-- For `RegistersWrittenOnlyByTheirCommands`, `OnlyLinkCommandsGoBusy` and `RequestsKeepTheirBounds`. -/
theorem witness_ExecNext :
    opened.busy = false ∧ exec .tgtInit opened = .next (nextOf (exec .tgtInit opened)) ∧
    (nextOf (exec .tgtInit opened)).busy = true ∧ isCrca .tgtInit = false ∧ isCrcb .tgtInit = false ∧
    Instr.tgtInit ≠ .atsLochb ∧
    complete { code := .timeout } (pendingAt 0x40) = .next (nextOf (complete { code := .timeout } (pendingAt 0x40))) :=
  ⟨by decide, rfl, by decide, by decide, by decide, by decide, rfl⟩

end Sys2Proof.Tests
end

section
/-! The invariant of R48: which updates of the state keep it, and that every step does. -/

namespace Sys2Proof.Machine

/-! ### Updates of the state that keep the invariant -/

theorem toNat_ofNat_le_of_le {n k : Nat} (h : n ≤ k) : (BitVec.ofNat 16 n).toNat ≤ k := by
  rw [BitVec.toNat_ofNat]
  exact (Nat.mod_le _ _).trans h

section Invariant

variable {s : State}

theorem State.Inv.finish (hi : s.Inv) (k : ErrKind) : (s.finish k).Inv :=
  { hi with err_le := k.code_le }

theorem State.Inv.request (hi : s.Inv) (q : LinkReq) : (s.request q).Inv := { hi with }

theorem State.Inv.reply (hi : s.Inv) (r : HostReply) : (s.reply r).Inv := { hi with }

theorem State.Inv.writeBuf (hi : s.Inv) {b : Buf} {v : List Byte} (hv : v.length ≤ 512) :
    (s.writeBuf b v).Inv :=
  { hi with mem_wf := State.wf_writeBuf hv hi.mem_wf }

theorem State.Inv.writeByte (hi : s.Inv) {b : Buf} {i : Nat} {v : Byte} (h : i < 512) :
    (s.writeByte b i v).Inv :=
  { hi with mem_wf := State.wf_writeByte h hi.mem_wf }

/-- The result lengths may take any values within R48's bounds. -/
theorem State.Inv.setLengths (hi : s.Inv) {d p r : Half} (hd : d.toNat ≤ 512) (hp : p.toNat ≤ 512)
    (hr : r.toNat ≤ 4096) : State.Inv { s with doutlen := d, poutlen := p, rxbits := r } :=
  { hi with doutlen_le := hd, poutlen_le := hp, rxbits_le := hr }

theorem State.Inv.result (hi : s.Inv) {v : List Byte} (hv : v.length ≤ 512) : (s.result v).Inv :=
  (hi.writeBuf hv).setLengths (toNat_ofNat_le_of_le hv) hi.poutlen_le hi.rxbits_le

theorem State.Inv.setHbvalid (hi : s.Inv) (x : Bool) : (s.setHbvalid x).Inv :=
  { hi with
    abtp_busy := by simpa using hi.abtp_busy
    busy_open := by simpa using hi.busy_open
    pending := fun h => hi.pending (by simpa using h) }

/-- A session is opened or closed only while nothing is pending, so `BUSY` implies `OPEN` after it. -/
theorem State.Inv.setOpen (hi : s.Inv) (hb : s.busy = false) (x : Bool) : (s.setOpen x).Inv :=
  { hi with
    abtp_busy := by simpa using hi.abtp_busy
    busy_open := by simp [hb]
    pending := by simp [hb] }

theorem State.Inv.setAbtp (hi : s.Inv) (hb : s.busy = true) (x : Bool) : (s.setAbtp x).Inv :=
  { hi with
    abtp_busy := by simp [hb]
    busy_open := by simpa using hi.busy_open
    pending := fun _ => hi.pending hb }

/-- The issue step establishes the condition on the pending command: the checks admitted its capacities (R164). -/
theorem State.Inv.goBusy (hi : s.Inv) {op : LinkOp} (ho : s.isOpen = true) (hc : s.capacitiesFit op.shape) :
    (s.goBusy op.opcode).Inv :=
  { hi with
    abtp_busy := by simp
    busy_open := by simp [ho]
    pending := fun _ => ⟨op, LinkOp.ofOpcode_opcode op, hc⟩ }

theorem State.Inv.endPending (hi : s.Inv) : s.endPending.Inv :=
  { hi with
    abtp_busy := by simp
    busy_open := by simp
    pending := by simp }

/-- A register may change while nothing is pending, a capacity too: R170's condition binds a pending receive only. -/
theorem State.Inv.writeReg (hi : s.Inv) (hb : s.busy = false) (v : Word) (reg : Reg) : (s.writeReg v reg).Inv := by
  cases reg <;>
    exact { hi with pending := fun h => absurd (hb.symm.trans h) Bool.false_ne_true }

/-- The invariant speaks of neither CRC accumulator. -/
theorem State.Inv.setAcc (hi : s.Inv) (a b : Half) : State.Inv { s with acca := a, accb := b } := { hi with }

/-! ### Steps keep the invariant -/

theorem State.Inv.of_effect {i : Instr} {t : State} (hi : s.Inv) (h : Effect i s t) : t.Inv := by
  cases h with
  | onlyErr _ _ k => exact hi.finish k
  | acca _ _ a => exact (hi.setAcc a s.accb).finish _
  | accaOut _ _ a v _ _ hv => exact ((hi.setAcc a s.accb).result hv).finish _
  | accb _ _ b => exact (hi.setAcc s.acca b).finish _
  | accbOut _ _ b v _ _ hv => exact ((hi.setAcc s.acca b).result hv).finish _
  | out _ v _ hv => exact (hi.result hv).finish _
  | located _ v o f _ hv ho =>
    have hoff : State.Inv { s with hboff := BitVec.ofNat 16 o } := { hi with hboff_le := toNat_ofNat_le_of_le ho }
    exact ((hoff.result hv).setHbvalid f).finish _
  | issued op _ q _ ho _ hc => exact (hi.goBusy ho hc).request q
  | opened _ hb => exact ((hi.request _).setOpen hb true).finish _
  | notOpened => exact (hi.request _).finish _
  | closed _ hb => exact ((hi.request _).setOpen hb false).finish _
  | aborted _ hb => exact (hi.setAbtp hb true).request _
  | abortIdle => exact hi

/-- The receive procedures deliver at most 512 bytes to each buffer and at most 4096 bits (R169, R170). -/
theorem State.Inv.of_received {rsp : LinkRsp} {k : RspShape} {u : State} (hi : s.Inv) (h : Received rsp k s u) :
    u.Inv := by
  cases h with
  | sent => exact hi.finish _
  | failedBytes => exact (hi.setLengths (d := 0) (Nat.zero_le _) hi.poutlen_le hi.rxbits_le).finish _
  | failedBits =>
    exact (hi.setLengths (d := 0) (p := 0) (r := 0) (Nat.zero_le _) (Nat.zero_le _) (Nat.zero_le _)).finish _
  | bytes _ v k _ hv => exact (hi.result hv).finish k
  | bits _ n k _ hm =>
    have htake (w : List Byte) : (w.take (ceil8 n)).length ≤ 512 := (List.length_take_le _ _).trans hm
    have hn : n ≤ 4096 := by unfold ceil8 at hm; omega
    have hstored := (hi.writeBuf (b := .dout) (htake rsp.data)).writeBuf (b := .pout) (htake rsp.par)
    exact (hstored.setLengths (toNat_ofNat_le_of_le hm) (toNat_ofNat_le_of_le hm)
      (toNat_ofNat_le_of_le hn)).finish k

theorem State.Inv.of_complete {rsp : LinkRsp} {t : State} (hi : s.Inv) (h : complete rsp s = .next t) : t.Inv := by
  obtain ⟨-, rfl⟩ | ⟨op, u, -, -, -, hr, rfl⟩ := complete_next h
  · exact hi
  · have hu := hi.of_received hr
    have hcyc : State.Inv { u with cycles := cyclesAfter op rsp s } := { hu with }
    exact hcyc.endPending

theorem State.Inv.of_exec {i : Instr} {t : State} (hi : s.Inv) (h : exec i s = .next t) : t.Inv :=
  hi.of_effect (exec_effect h)

theorem State.Inv.of_regWrite {r : BitVec 7} {v : Word} {t : State} (hi : s.Inv) (h : regWrite r v s = .next t) :
    t.Inv := by
  obtain ⟨-, i, -, he⟩ | ⟨-, -, -, rfl⟩ | ⟨-, -, he⟩ | ⟨-, -, rfl⟩ | ⟨hb, -, -, reg, rfl⟩ := regWrite_next h
  · exact hi.of_exec he
  · exact hi.finish _
  · exact hi.of_exec he
  · exact hi
  · exact hi.writeReg hb v reg

theorem State.Inv.of_hostTransaction {x : HostTxn} {t : State} (hi : s.Inv) (h : hostTransaction x s = .next t) :
    t.Inv := by
  cases x with
  | regRead r => cases h; exact hi.reply _
  | regWrite r v => exact hi.of_regWrite h
  | bufRead b i => cases h; exact hi.reply _
  | bufWrite b i v =>
    obtain ⟨-, h⟩ := whenIdle_eq_next.1 h
    cases h
    split
    · exact hi.writeByte i.isLt
    · exact hi

theorem State.Inv.reset : State.reset.Inv where
  mem_wf := Memory.wf_reset
  doutlen_le := by decide
  poutlen_le := by decide
  rxbits_le := by decide
  hboff_le := by decide
  err_le := by decide
  abtp_busy := by decide
  busy_open := by decide
  pending := fun h => absurd h (by decide)

/-- Reset needs no assumption on the state it abandons (R260). -/
theorem State.Inv.resetBlock (s : State) : (resetBlock s).Inv := { State.Inv.reset with }

theorem State.Inv.of_move {e : Event} {t : State} (hi : s.Inv) (h : move e s = .next t) : t.Inv := by
  cases e with
  | host x c =>
    have hc : State.Inv { s with openCode := c } := { hi with }
    exact hc.of_hostTransaction h
  | abortWrite v =>
    rw [move, writeAbort_eq] at h
    split at h
    · exact hi.of_exec h
    · cases h; exact hi
  | link rsp => exact hi.of_complete h
  | reset => cases h; exact State.Inv.resetBlock s

end Invariant

/-- Settles O16. -/
theorem invariantHoldsAtReset : Obligations.InvariantHoldsAtReset := State.Inv.reset

/-- Settles O17: with no move to come the state stays; a move starts from the same state with a shorter list of
moves, of which the invariant does not speak, and keeps it by `State.Inv.of_move`. -/
theorem stepKeepsInvariant : Obligations.StepKeepsInvariant := by
  intro s t hi h
  cases he : s.events with
  | nil =>
    rw [step_of_no_events he] at h
    cases h; exact hi
  | cons e rest =>
    rw [step_of_events he] at h
    have hrest : State.Inv { s with events := rest } := { hi with }
    exact hrest.of_move h

end Sys2Proof.Machine
end

section
/-! What the host port and the abort write do, move by move (spec/10_state.md R23 to R43, spec/20_memory.md R61 to
R63). -/

namespace Sys2Proof.Machine

/-! ### A move of the host -/

theorem writeCmd_of_decode {w : Word} {i : Instr} (h : decode .cmd w = .instr i) (s : State) :
    writeCmd w s = exec i s := by
  rw [writeCmd, h]

theorem writeAbort_of_decode {v : Word} {i : Instr} (h : decode .abort v = .instr i) (s : State) :
    writeAbort v s = exec i s := by
  rw [writeAbort, h]

/-- The state a host transaction starts from: its move is taken off the list and its open code is latched (log 1,
log 3). -/
def State.afterHostMove (s : State) (c : LinkCode) (rest : List Event) : State :=
  { s with events := rest, openCode := c }

section HostMove

variable {s : State} {c : LinkCode} {rest : List Event}

theorem step_of_host {x : HostTxn} (h : s.events = .host x c :: rest) :
    step s = hostTransaction x (s.afterHostMove c rest) :=
  step_of_events h

/-- A write to `CMD` runs the operation its word decodes to (R23). -/
theorem step_of_writeCmd {w : Word} {i : Instr} (h : s.events = .host (.regWrite 0 w) c :: rest)
    (hd : decode .cmd w = .instr i) : step s = exec i (s.afterHostMove c rest) :=
  (step_of_host h).trans (writeCmd_of_decode hd _)

/-- The host's write to `ABORT` acts exactly when bit 0 is set (R26). -/
theorem step_of_hostAbort {v : Word} (h : s.events = .host (.regWrite 3 v) c :: rest) :
    step s = if v.getLsbD 0 then exec .abort (s.afterHostMove c rest) else .next (s.afterHostMove c rest) :=
  (step_of_host h).trans (writeAbort_eq v _)

/-- A write to a register other than `CMD` and `ABORT` while `BUSY = 0` is `writeReg` (R42, R62). -/
theorem step_of_regWrite {r : BitVec 7} {v : Word} (reg : Reg) (h : s.events = .host (.regWrite r v) c :: rest)
    (hb : s.busy = false) (hr : Reg.ofIndex r = some reg) (hcmd : reg ≠ .cmd) (habort : reg ≠ .abort) :
    step s = .next ((s.afterHostMove c rest).writeReg v reg) := by
  rw [step_of_host h, hostTransaction, regWrite, hr]
  cases reg <;> first | contradiction | exact whenIdle_of_idle hb

/-- A write of a reserved index while `BUSY = 0` is ignored (R41). -/
theorem step_of_reservedWrite {r : BitVec 7} {v : Word} (h : s.events = .host (.regWrite r v) c :: rest)
    (hb : s.busy = false) (hr : Reg.ofIndex r = none) : step s = .next (s.afterHostMove c rest) := by
  rw [step_of_host h, hostTransaction, regWrite, hr]
  exact whenIdle_of_idle hb

/-- A buffer write while `BUSY = 0` (R63). -/
theorem step_of_bufWrite {b : BitVec 2} {i : BitVec 9} {v : Byte} (h : s.events = .host (.bufWrite b i v) c :: rest)
    (hb : s.busy = false) :
    step s = .next (if (Buf.ofNumber b).hostWritable then
      (s.afterHostMove c rest).writeByte (Buf.ofNumber b) i.toNat v else s.afterHostMove c rest) := by
  rw [step_of_host h]
  exact whenIdle_of_idle hb

end HostMove

theorem State.regRead_reserved (s : State) {r : BitVec 7} (h : 18 ≤ r.toNat) : s.regRead r = 0 := by
  rw [State.regRead, Reg.ofIndex_none h]

/-- A read-only register keeps its value (R42). -/
theorem State.writeReg_of_not_isRW {reg : Reg} (h : reg.isRW = false) (s : State) (v : Word) :
    s.writeReg v reg = s := by
  cases reg <;> first | rfl | cases h

/-- The indices of the read-only registers (R24 to R40). -/
theorem Reg.ofIndex_readOnly : ∀ r ∈ ([1, 2, 4, 5, 8, 9, 11, 17] : List (BitVec 7)), ∃ reg ∈ Reg.byIndex,
    Reg.ofIndex r = some reg ∧ reg.isRW = false ∧ reg ≠ .cmd ∧ reg ≠ .abort := by
  decide

/-! ### Words of the opcode table -/

/-- What the table reads from a word is what its port's decoder reads from it. -/
theorem decode_of_tableEntry {nbits w : Nat} {p : Port} {i : Instr} (h : tableEntry nbits w = some (p, i)) :
    decode p (BitVec.ofNat 32 w) = .instr i := by
  have ofPort {q : Port} (hq : (decode q (BitVec.ofNat 32 w)).instr?.map (fun j => (q, j)) = some (p, i)) :
      decode p (BitVec.ofNat 32 w) = .instr i := by
    cases hd : decode q (BitVec.ofNat 32 w) with
    | instr j => rw [hd] at hq; cases hq; exact hd
    | rejected _ => rw [hd] at hq; cases hq
  simp only [tableEntry] at h
  split at h <;> rw [Option.or_eq_some_iff] at h <;> obtain h | ⟨-, h⟩ := h <;> exact ofPort h

/-- A word of the opcode table placed by `withFetchWord` runs in the very state it was placed in (log 2). -/
theorem step_withFetchWord {nbits w : Nat} {i : Instr} (h : decodeTableWord nbits w = some i) (s : State) :
    step (s.withFetchWord nbits w) = exec i s := by
  obtain ⟨⟨p, j⟩, hentry, rfl⟩ := Option.map_eq_some_iff.1 h
  have hd := decode_of_tableEntry hentry
  cases p with
  | cmd =>
    have he : (s.withFetchWord nbits w).events = .host (.regWrite 0 (BitVec.ofNat 32 w)) s.openCode :: s.events := by
      simp only [State.withFetchWord, issueEvent, hentry]
    exact step_of_writeCmd he hd
  | abort =>
    have he : (s.withFetchWord nbits w).events = .host (.regWrite 3 (BitVec.ofNat 32 w)) s.openCode :: s.events := by
      simp only [State.withFetchWord, issueEvent, hentry]
    exact (step_of_host he).trans (writeAbort_of_decode hd s)

/-! ### The buffers by number -/

theorem Buf.base_ofNumber (b : BitVec 2) : (Buf.ofNumber b).base = 0x200 * (b.toNat + 1) := by
  revert b; decide

/-- Buffers 0 and 1, `DIN` and `PIN`, are the ones the host may write (R43). -/
theorem Buf.hostWritable_ofNumber (b : BitVec 2) : (Buf.ofNumber b).hostWritable = decide (b.toNat < 2) := by
  revert b; decide

/-- Different bytes of the four buffers have different addresses in the byte-address view (R64). -/
theorem Buf.address_inj {b b' : BitVec 2} {i i' : BitVec 9} :
    (Buf.ofNumber b').base + i'.toNat = (Buf.ofNumber b).base + i.toNat ↔ b' = b ∧ i' = i := by
  rw [Buf.base_ofNumber, Buf.base_ofNumber, ← BitVec.toNat_inj, ← BitVec.toNat_inj]
  have := i.isLt
  have := i'.isLt
  omega

/-- What the host reads in a buffer after a byte write. -/
theorem State.bufByte_writeByte_ofNumber (s : State) (b b' : BitVec 2) (i i' : BitVec 9) (v : Byte) :
    (s.writeByte (Buf.ofNumber b) i.toNat v).bufByte (Buf.ofNumber b') i'.toNat =
      if b' = b ∧ i' = i then v else s.bufByte (Buf.ofNumber b') i'.toNat := by
  simp only [State.bufByte, State.byteOf_writeByte, Buf.address_inj]

/-! ### The obligations -/

/-- Settles O10: a write to `DIN` or `PIN` is a byte write at an address of its own, one to `DOUT` or `POUT` is
ignored. -/
theorem bufWriteStoresOneByte : Obligations.BufWriteStoresOneByte := by
  intro s b i v c rest h hb
  have hstep := step_of_bufWrite h hb
  rw [Buf.hostWritable_ofNumber] at hstep
  by_cases hw : b.toNat < 2
  · rw [decide_eq_true hw, if_pos rfl] at hstep
    refine ⟨_, hstep, rfl, fun b' i' => ?_⟩
    rw [State.bufByte_writeByte_ofNumber]
    simp only [hw, and_true]
    rfl
  · rw [decide_eq_false hw, if_neg Bool.false_ne_true] at hstep
    refine ⟨_, hstep, rfl, fun b' i' => ?_⟩
    rw [if_neg fun hc => hw hc.2.2]
    rfl

/-- Settles O6, a lemma per port; the clause on `withFetchWord` by `decode_of_tableEntry`. -/
theorem stepRunsDecodedOperation : Obligations.StepRunsDecodedOperation := by
  refine ⟨fun s w c rest i h hd => step_of_writeCmd h hd, fun s v c rest h => step_of_hostAbort h, ?_,
    fun s nbits w i h => step_withFetchWord h s⟩
  intro s v rest h
  rw [step_of_events h]
  exact writeAbort_eq v _

/-- Settles O7: a read is a reply appended to the transcript, and each index reads its own register. -/
theorem readsReturnValueAndChangeNothing : Obligations.ReadsReturnValueAndChangeNothing := by
  refine ⟨fun s r c rest h => step_of_host h, fun s b i c rest h => step_of_host h, fun s => ?_⟩
  exact ⟨rfl, rfl, rfl, rfl, rfl, rfl, rfl, rfl, rfl, rfl, rfl, rfl, rfl, rfl, rfl, rfl, rfl, rfl⟩

/-- Settles O8: no register has such an index. -/
theorem reservedIndicesAreInert : Obligations.ReservedIndicesAreInert := by
  intro s r c rest hr
  refine ⟨fun h => ?_, fun v h hb => step_of_reservedWrite h hb (Reg.ofIndex_none hr)⟩
  have hread : (s.afterHostMove c rest).regRead r = 0 := State.regRead_reserved _ hr
  rw [step_of_host h, hostTransaction, hread]
  rfl

/-- Settles O9: each index is the register's of the table in R23 to R40. -/
theorem regWriteStoresLowBits : Obligations.RegWriteStoresLowBits := by
  intro s r v c rest h hb
  have stores (reg : Reg) (hr : Reg.ofIndex r = some reg) (hrw : reg.isRW = true) :
      step s = .next ((s.afterHostMove c rest).writeReg v reg) :=
    step_of_regWrite reg h hb hr (by rintro rfl; cases hrw) (by rintro rfl; cases hrw)
  refine ⟨?_, ?_, ?_, ?_, ?_, ?_, ?_, ?_, fun hmem => ?_⟩
  · rintro rfl; exact stores .dinlen rfl rfl
  · rintro rfl; exact stores .pinlen rfl rfl
  · rintro rfl; exact stores .txbits rfl rfl
  · rintro rfl; exact stores .rxcap rfl rfl
  · rintro rfl; exact stores .rxpcap rfl rfl
  · rintro rfl; exact stores .rxcapbits rfl rfl
  · rintro rfl; exact stores .timeout rfl rfl
  · rintro rfl; exact stores .cycles rfl rfl
  · obtain ⟨reg, -, hr, hro, hcmd, habort⟩ := Reg.ofIndex_readOnly r hmem
    rw [step_of_regWrite reg h hb hr hcmd habort, State.writeReg_of_not_isRW hro]
    rfl

/-- Settles O13, by evaluation. -/
theorem resetStateHasSpecValues : Obligations.ResetStateHasSpecValues := by
  unfold Obligations.ResetStateHasSpecValues
  decide

end Sys2Proof.Machine
end

section
/-! What commands, aborts and completions leave unchanged: the input buffers, and the registers that are not theirs
(spec/10_state.md R22 to R43, spec/20_memory.md R66). -/

namespace Sys2Proof.Machine

/-! ### The input buffers -/

/-- A buffer write changes no byte below the buffer's base. -/
theorem State.byteOf_writeBuf_below (s : State) {b : Buf} {a : Nat} (h : a < b.base) (v : List Byte) :
    (s.writeBuf b v).byteOf a = s.byteOf a := by
  rw [State.byteOf_writeBuf, dif_neg (by omega)]

section Frame

variable {s t : State}

theorem Effect.byteOf_input {i : Instr} {a : Nat} (h : Effect i s t) (ha : a < 0x600) :
    t.byteOf a = s.byteOf a := by
  cases h with
  | accaOut _ _ x v => exact s.byteOf_writeBuf_below (b := .dout) ha v
  | accbOut _ _ x v => exact s.byteOf_writeBuf_below (b := .dout) ha v
  | out _ v => exact s.byteOf_writeBuf_below (b := .dout) ha v
  | located _ v => exact s.byteOf_writeBuf_below (b := .dout) ha v
  | _ => rfl

theorem Received.byteOf_input {rsp : LinkRsp} {k : RspShape} {a : Nat} (h : Received rsp k s t) (ha : a < 0x600) :
    t.byteOf a = s.byteOf a := by
  cases h with
  | bytes _ v => exact s.byteOf_writeBuf_below (b := .dout) ha v
  | bits _ n =>
    have hpout : a < Buf.pout.base := ha.trans (by decide)
    exact (State.byteOf_writeBuf_below _ hpout _).trans (s.byteOf_writeBuf_below (b := .dout) ha _)
  | _ => rfl

theorem complete_byteOf_input {rsp : LinkRsp} {a : Nat} (h : complete rsp s = .next t) (ha : a < 0x600) :
    t.byteOf a = s.byteOf a := by
  obtain ⟨-, rfl⟩ | ⟨op, u, -, -, -, hr, rfl⟩ := complete_next h
  · rfl
  · exact hr.byteOf_input ha

/-! ### The operand registers -/

/-- The registers that only the host writes (R29, R30, R33, R35 to R38) are the same in two states. -/
def SameOperands (s t : State) : Prop :=
  t.dinlen = s.dinlen ∧ t.pinlen = s.pinlen ∧ t.txbits = s.txbits ∧ t.rxcap = s.rxcap ∧ t.rxpcap = s.rxpcap ∧
    t.rxcapbits = s.rxcapbits ∧ t.timeout = s.timeout

theorem Effect.sameOperands {i : Instr} (h : Effect i s t) : SameOperands s t := by
  cases h <;> exact ⟨rfl, rfl, rfl, rfl, rfl, rfl, rfl⟩

theorem Received.sameOperands {rsp : LinkRsp} {k : RspShape} (h : Received rsp k s t) : SameOperands s t := by
  cases h <;> exact ⟨rfl, rfl, rfl, rfl, rfl, rfl, rfl⟩

theorem complete_sameOperands {rsp : LinkRsp} (h : complete rsp s = .next t) : SameOperands s t := by
  obtain ⟨-, rfl⟩ | ⟨op, u, -, -, -, hr, rfl⟩ := complete_next h
  · exact ⟨rfl, rfl, rfl, rfl, rfl, rfl, rfl⟩
  · exact hr.sameOperands

/-! ### The result registers -/

/-- `ACCA` is written by the commands of CRCA alone (R27). -/
theorem Effect.acca_eq {i : Instr} (h : Effect i s t) (hi : isCrca i = false) : t.acca = s.acca := by
  cases h with
  | acca _ _ _ _ hc => cases hi.symm.trans hc
  | accaOut _ _ _ _ _ hc => cases hi.symm.trans hc
  | _ => rfl

/-- `ACCB` is written by the commands of CRCB alone (R28). -/
theorem Effect.accb_eq {i : Instr} (h : Effect i s t) (hi : isCrcb i = false) : t.accb = s.accb := by
  cases h with
  | accb _ _ _ _ hc => cases hi.symm.trans hc
  | accbOut _ _ _ _ _ hc => cases hi.symm.trans hc
  | _ => rfl

/-- `HBOFF` and `HBVALID` are written by `ATS.LOCHB` alone (R40). -/
theorem Effect.historical_eq {i : Instr} (h : Effect i s t) (hi : i ≠ .atsLochb) :
    t.hboff = s.hboff ∧ t.hbvalid = s.hbvalid := by
  cases h with
  | located => exact absurd rfl hi
  | issued => exact ⟨rfl, by simp⟩
  | opened => exact ⟨rfl, by simp⟩
  | closed => exact ⟨rfl, by simp⟩
  | aborted => exact ⟨rfl, by simp⟩
  | _ => exact ⟨rfl, rfl⟩

/-- `POUTLEN`, `RXBITS` and `CYCLES` are written by no operation (R32, R34, R39). -/
theorem Effect.received_eq {i : Instr} (h : Effect i s t) :
    t.poutlen = s.poutlen ∧ t.rxbits = s.rxbits ∧ t.cycles = s.cycles := by
  cases h <;> exact ⟨rfl, rfl, rfl⟩

/-- A receive writes none of the registers that compute commands write. -/
theorem Received.computed_eq {rsp : LinkRsp} {k : RspShape} (h : Received rsp k s t) :
    t.acca = s.acca ∧ t.accb = s.accb ∧ t.hboff = s.hboff ∧ t.hbvalid = s.hbvalid := by
  cases h <;> exact ⟨rfl, rfl, rfl, rfl⟩

theorem complete_computed_eq {rsp : LinkRsp} (h : complete rsp s = .next t) :
    t.acca = s.acca ∧ t.accb = s.accb ∧ t.hboff = s.hboff ∧ t.hbvalid = s.hbvalid := by
  obtain ⟨-, rfl⟩ | ⟨op, u, -, -, -, hr, rfl⟩ := complete_next h
  · exact ⟨rfl, rfl, rfl, rfl⟩
  · obtain ⟨hacca, haccb, hhboff, hhbvalid⟩ := hr.computed_eq
    exact ⟨hacca, haccb, hhboff, (State.endPending_hbvalid _).trans hhbvalid⟩

end Frame

/-! ### The obligations -/

/-- Settles O55: `DOUT` and `POUT`, which operations and completions write, lie above both input buffers. -/
theorem commandsNeverWriteInputBuffers : Obligations.CommandsNeverWriteInputBuffers := by
  rintro s t (⟨i, h⟩ | ⟨rsp, h⟩) a - ha
  · exact (exec_effect h).byteOf_input ha
  · exact complete_byteOf_input h ha

/-- Settles O57, from the inversions of `exec` and `complete`. -/
theorem registersWrittenOnlyByTheirCommands : Obligations.RegistersWrittenOnlyByTheirCommands := by
  refine ⟨?_, fun i s t h => ?_, fun rsp s t h => complete_computed_eq h⟩
  · rintro s t (⟨i, h⟩ | ⟨rsp, h⟩)
    · exact (exec_effect h).sameOperands
    · exact complete_sameOperands h
  · have he := exec_effect h
    exact ⟨he.acca_eq, he.accb_eq, he.historical_eq, he.received_eq⟩

end Sys2Proof.Machine
end

section
/-! Where bytes stand and which of them a command leaves alone: the byte-address view (spec/20_memory.md R64), and the
stale bytes of `DOUT` and `POUT` above their lengths (R66, spec/70_reset_and_hazards.md R269). -/

namespace Sys2Proof.Machine

/-! ### The byte-address view -/

section View

variable (s : State)

/-- A register's bytes stand little-endian from four times its index. -/
theorem State.viewByte_register (r : BitVec 7) {j : Nat} (hj : j < 4) :
    s.viewByte (4 * r.toNat + j) = some ((s.regRead r).extractLsb' (8 * j) 8) := by
  have hr := r.isLt
  have hindex : (4 * r.toNat + j) / 4 = r.toNat := by omega
  have hbyte : (4 * r.toNat + j) % 4 = j := by omega
  rw [State.viewByte, if_pos (by omega), hindex, hbyte, BitVec.ofNat_toNat, BitVec.setWidth_eq]

/-- Every buffer lies between the registers and the unmapped addresses. -/
theorem Buf.base_bounds (b : Buf) : 0x200 ≤ b.base ∧ b.base + 512 ≤ 0xA00 := by
  cases b <;> decide

theorem State.viewByte_buffer (b : Buf) {i : Nat} (hi : i < 512) :
    s.viewByte (b.base + i) = some (s.bufByte b i) := by
  have hb := b.base_bounds
  rw [State.viewByte, if_neg (by omega), if_pos (by omega), State.bufByte]

theorem State.viewByte_unmapped {a : Nat} (ha : 0xA00 ≤ a) : s.viewByte a = none := by
  rw [State.viewByte, if_neg (by omega), if_neg (by omega)]

end View

/-! ### Bytes at and above the new lengths -/

/-- The bytes of `DOUT` and of `POUT` at and above the lengths in `t` read as in `s`. -/
def KeepsStaleBytes (s t : State) : Prop :=
  ∀ i, i < 512 →
    (t.doutlen.toNat ≤ i → t.bufByte .dout i = s.bufByte .dout i) ∧
    (t.poutlen.toNat ≤ i → t.bufByte .pout i = s.bufByte .pout i)

section Stale

variable {s t : State}

/-- What leaves every byte alone leaves the stale ones alone. -/
theorem KeepsStaleBytes.of_mem (hm : t.mem = s.mem) (hr : t.resets = s.resets) : KeepsStaleBytes s t :=
  fun _ _ => ⟨fun _ => State.byteOf_congr hm hr _, fun _ => State.byteOf_congr hm hr _⟩

/-- No stale byte is written when the bytes stored fit in the new lengths: at most 512 bytes from `DOUT[0]` end
before `POUT`, and `POUT` stands above all of `DOUT`. -/
theorem KeepsStaleBytes.of_storesTwo {v w : List Byte} (h : StoresTwo .dout v .pout w s t) (hv : v.length ≤ 512)
    (hd : v.length ≤ t.doutlen.toNat) (hp : w.length ≤ t.poutlen.toNat) : KeepsStaleBytes s t := by
  obtain ⟨-, -, hother⟩ := h
  have hdout : Buf.dout.base = 0x600 := rfl
  have hpout : Buf.pout.base = 0x800 := rfl
  exact fun i hi =>
    ⟨fun hle => hother _ (by omega) (by omega), fun hle => hother _ (by omega) (by omega)⟩

/-- A length of at most 512 is held by a 16-bit register as it is. -/
theorem toNat_ofNat_of_le_frame {n : Nat} (h : n ≤ 512) : (BitVec.ofNat 16 n).toNat = n := by
  rw [BitVec.toNat_ofNat, Nat.mod_eq_of_lt (by omega)]

/-- A result in `DOUT` with its length in `DOUTLEN` leaves all of `POUT` alone. -/
theorem KeepsStaleBytes.of_dout {v : List Byte} (hv : v.length ≤ 512) (hm : t.mem = (s.writeBuf .dout v).mem)
    (hr : t.resets = s.resets) (hd : t.doutlen = BitVec.ofNat 16 v.length) : KeepsStaleBytes s t :=
  .of_storesTwo (w := []) (storesTwo_of_writeBuf hv hm hr) hv
    (by rw [hd, toNat_ofNat_of_le_frame hv]) (Nat.zero_le _)

theorem Effect.keepsStaleBytes {i : Instr} (h : Effect i s t) : KeepsStaleBytes s t := by
  cases h with
  | accaOut _ _ _ v _ _ hv => exact .of_dout hv rfl rfl rfl
  | accbOut _ _ _ v _ _ hv => exact .of_dout hv rfl rfl rfl
  | out _ v _ hv => exact .of_dout hv rfl rfl rfl
  | located _ v _ _ _ hv => exact .of_dout hv rfl rfl rfl
  | _ => exact .of_mem rfl rfl

theorem Received.keepsStaleBytes {rsp : LinkRsp} {k : RspShape} (h : Received rsp k s t) : KeepsStaleBytes s t := by
  cases h with
  | bytes _ v _ _ hv => exact .of_dout hv rfl rfl rfl
  | bits _ n _ _ hm =>
    have hlen : (BitVec.ofNat 16 (ceil8 n)).toNat = ceil8 n := toNat_ofNat_of_le_frame hm
    have hdout : (rsp.data.take (ceil8 n)).length ≤ ceil8 n := List.length_take_le _ _
    have hpout : (rsp.par.take (ceil8 n)).length ≤ ceil8 n := List.length_take_le _ _
    have hframe := hdout.trans hm
    exact .of_storesTwo (storesTwo_of_writeBuf hframe rfl rfl) hframe (hdout.trans_eq hlen.symm)
      (hpout.trans_eq hlen.symm)
  | _ => exact .of_mem rfl rfl

/-- `CYCLES`, `BUSY` and `ABTP`, which the end of a completion writes, are neither bytes nor lengths. -/
theorem complete_keepsStaleBytes {rsp : LinkRsp} (h : complete rsp s = .next t) : KeepsStaleBytes s t := by
  obtain ⟨-, rfl⟩ | ⟨op, u, -, -, -, hr, rfl⟩ := complete_next h
  · exact .of_mem rfl rfl
  · exact hr.keepsStaleBytes

end Stale

/-! ### The obligations -/

/-- Settles O56: whatever writes `DOUT` or `POUT` sets a length that covers what it wrote. -/
theorem bytesAboveLengthKept : Obligations.BytesAboveLengthKept := by
  rintro s t (⟨i, h⟩ | ⟨rsp, h⟩)
  · exact (exec_effect h).keepsStaleBytes
  · exact complete_keepsStaleBytes h

/-- Settles O12, a lemma per kind of address. -/
theorem byteViewLayout : Obligations.ByteViewLayout := fun s =>
  ⟨fun r _ hj => s.viewByte_register r hj,
    fun _ hi => ⟨s.viewByte_buffer .din hi, s.viewByte_buffer .pin hi, s.viewByte_buffer .dout hi,
      s.viewByte_buffer .pout hi⟩,
    fun _ ha => s.viewByte_unmapped ha⟩

end Sys2Proof.Machine
end

section
/-! Decoding and encoding of words (spec/30_encoding.md R80 to R86): the rows of the opcode map have different opcodes,
so a word that a row selects is decoded by that row, and the word is the one the row's operation encodes to. -/

namespace Sys2Proof

/-! ### Rows and the words they select -/

/-- No two rows of the map have the same opcode (R85). -/
theorem nodup_opcodeMap_patterns : (opcodeMap.map Row.pattern).Nodup := by decide

/-- The row that selects a word is the only one (R80). -/
theorem Row.eq_of_selects {r r' : Row} {w : Word} (hr : r ∈ opcodeMap) (hr' : r' ∈ opcodeMap)
    (hs : r.selects w = true) (hs' : r'.selects w = true) : r = r' :=
  List.inj_on_of_nodup_map nodup_opcodeMap_patterns hr hr'
    ((pattern_of_selects hr hs).trans (pattern_of_selects hr' hs').symm)

/-- A word is decoded by the row that selects it, wherever the row stands in the map. -/
theorem decodeCmd_of_selects {r : Row} {w : Word} (hr : r ∈ opcodeMap) (hs : r.selects w = true) :
    decodeCmd w = .instr (r.build (imm8Of w)) := by
  cases h : decodeCmd w with
  | instr i =>
    obtain ⟨r', hr', hs', rfl⟩ := row_of_decodeCmd h
    rw [Row.eq_of_selects hr hr' hs hs']
  | rejected j =>
    have hnone := decodeCmd_rejected.1 ⟨j, h⟩ r hr
    rw [hs] at hnone
    cases hnone

/-- What a row builds from a word it selects is issued by that word, through `CMD`. -/
theorem encode_build_of_selects {r : Row} {w : Word} (hr : r ∈ opcodeMap) (hs : r.selects w = true) :
    encode (r.build (imm8Of w)) = w ∧ portOf (r.build (imm8Of w)) = .cmd := by
  obtain ⟨m, op, i, rfl, hencode, hport⟩ | ⟨m, op, f, rfl, -, hf⟩ := opcodeMap_formats hr
  · exact ⟨hencode.trans (selects_formatN.1 hs).symm, hport⟩
  · obtain ⟨b, rfl⟩ := selects_formatI.1 hs
    obtain ⟨hencode, hport⟩ := hf (imm8Of (wordI op b))
    exact ⟨hencode.trans (by rw [imm8Of_wordI]), hport⟩

/-- A word that a row selects is its opcode alone, or one of the two opcodes that carry an immediate with that
immediate (R81, R82). -/
theorem word_of_selects {r : Row} {w : Word} (hr : r ∈ opcodeMap) (hs : r.selects w = true) :
    w = (opOf w).setWidth 32 ∨ (opOf w = 0x11 ∨ opOf w = 0x21) ∧ ∃ b, w = wordI (opOf w) b := by
  obtain ⟨m, op, i, rfl, -, -⟩ | ⟨m, op, f, rfl, hop, -⟩ := opcodeMap_formats hr
  · obtain rfl := selects_formatN.1 hs
    rw [opOf_setWidth]
    exact .inl rfl
  · obtain ⟨b, rfl⟩ := selects_formatI.1 hs
    rw [opOf_wordI]
    exact .inr ⟨hop, b, rfl⟩

theorem setWidth_extractLsb'_high (op : Byte) {start len : Nat} (h : 8 ≤ start) :
    (op.setWidth 32).extractLsb' start len = 0 := by
  apply BitVec.eq_of_getLsbD_eq
  intro k hk
  have hbit : op.getLsbD (start + k) = false := BitVec.getLsbD_of_ge _ _ (by omega)
  simp [hbit]

theorem wordI_extractLsb'_high (op b : Byte) {start len : Nat} (h : 16 ≤ start) :
    (wordI op b).extractLsb' start len = 0 := by
  apply BitVec.eq_of_getLsbD_eq
  intro k hk
  have hop : op.getLsbD (start + k) = false := BitVec.getLsbD_of_ge _ _ (by omega)
  have himm : b.getLsbD (start + k - 8) = false := BitVec.getLsbD_of_ge _ _ (by omega)
  simp [wordI, hop, himm]

/-! ### The two directions of the round trip -/

/-- The laws of the single operations, as one statement over all of them. -/
theorem matchesRow : ∀ i : Instr, Laws.MatchesRow.Statement i
  | .crcaInit => Laws.MatchesRow.crcaInit
  | .crcaUpd b => Laws.MatchesRow.crcaUpd b
  | .crcaCalc => Laws.MatchesRow.crcaCalc
  | .crcaAppend => Laws.MatchesRow.crcaAppend
  | .crcbInit => Laws.MatchesRow.crcbInit
  | .crcbUpd b => Laws.MatchesRow.crcbUpd b
  | .crcbCalc => Laws.MatchesRow.crcbCalc
  | .crcbAppend => Laws.MatchesRow.crcbAppend
  | .cascEnc => Laws.MatchesRow.cascEnc
  | .atsLochb => Laws.MatchesRow.atsLochb
  | .xcvBytes => Laws.MatchesRow.xcvBytes
  | .xcvBytesT => Laws.MatchesRow.xcvBytesT
  | .xcvBits => Laws.MatchesRow.xcvBits
  | .xcvBitsT => Laws.MatchesRow.xcvBitsT
  | .tgtInit => Laws.MatchesRow.tgtInit
  | .tgtSendb => Laws.MatchesRow.tgtSendb
  | .tgtRecvb => Laws.MatchesRow.tgtRecvb
  | .tgtSendbits => Laws.MatchesRow.tgtSendbits
  | .tgtRecvbits => Laws.MatchesRow.tgtRecvbits
  | .lnkOpen => Laws.MatchesRow.lnkOpen
  | .lnkClose => Laws.MatchesRow.lnkClose
  | .abort => Laws.MatchesRow.abort

/-- A value written to `ABORT` decodes exactly when bit 0 is set, and then to `ABORT` (R83). -/
theorem decodeAbort_eq_instr {v : Word} {i : Instr} :
    decodeAbort v = .instr i ↔ v.getLsbD 0 = true ∧ i = .abort := by
  rw [decodeAbort]
  cases v.getLsbD 0 <;> simp [eq_comm]

theorem portOf_eq_abort {i : Instr} : portOf i = .abort ↔ i = .abort := by
  cases i <;> simp [portOf]

theorem decode_encode (i : Instr) : decode (portOf i) (encode i) = .instr i := by
  obtain ⟨hport, r, hr, hs, hbuild⟩ | ⟨hport, hbit⟩ := matchesRow i
  · rw [hport]
    exact (decodeCmd_of_selects hr hs).trans (congrArg Decoded.instr hbuild)
  · rw [hport]
    exact decodeAbort_eq_instr.2 ⟨hbit, portOf_eq_abort.1 hport⟩

theorem encode_of_decodeCmd {w : Word} {i : Instr} (h : decodeCmd w = .instr i) :
    encode i = w ∧ portOf i = .cmd := by
  obtain ⟨r, hr, hs, rfl⟩ := row_of_decodeCmd h
  exact encode_build_of_selects hr hs

end Sys2Proof

namespace Sys2Proof.Machine

/-! ### Illegal words -/

theorem illegal_of_not_selects {w : Word} (h : ∀ r ∈ opcodeMap, ¬ r.selects w = true) : Illegal w :=
  fun r hr => Bool.eq_false_iff.2 (h r hr)

/-- Issuing an illegal word while `BUSY = 0` ends with `NotImplemented` at once (R86). -/
theorem writeCmd_of_illegal {w : Word} {s : State} (hb : s.busy = false) (h : Illegal w) :
    writeCmd w s = .next (s.finish .notImplemented) := by
  obtain ⟨j, hj⟩ := decodeCmd_rejected.2 h
  have hd : decode .cmd w = .rejected j := hj
  rw [writeCmd, hd]
  exact whenIdle_of_idle hb

/-! ### The obligations -/

/-- Settles O1: an operation's word is selected by its own row, which is the row that decodes it. -/
theorem decodeInvertsEncode : Obligations.DecodeInvertsEncode := fun i _ => decode_encode i

/-- Settles O2, port by port. -/
theorem onlyOwnWordsDecode : Obligations.OnlyOwnWordsDecode := by
  intro p w i h
  cases p with
  | cmd =>
    obtain ⟨hencode, hport⟩ := encode_of_decodeCmd h
    exact ⟨hport, fun _ => hencode, nofun⟩
  | abort =>
    obtain ⟨hbit, rfl⟩ := decodeAbort_eq_instr.1 h
    exact ⟨rfl, nofun, fun _ => hbit⟩

/-- Settles O3: both rows have the word's own opcode, and no opcode stands in two places of the map. -/
theorem opcodeRowsNeverOverlap : Obligations.OpcodeRowsNeverOverlap := by
  intro w j k hj hk hsj hsk
  have hrow : opcodeMap[j] = opcodeMap[k] :=
    Row.eq_of_selects (List.getElem_mem hj) (List.getElem_mem hk) hsj hsk
  exact (nodup_opcodeMap_patterns.of_map _).getElem_inj_iff.1 hrow

/-- Settles O4: the command words are those of `encode`; the value for `ABORT` has bit 0 set. -/
theorem sampleWordsDecode : Obligations.SampleWordsDecode :=
  ⟨decode_encode .crcaInit, decode_encode (.crcaUpd 0xFF), decode_encode .crcaAppend, decode_encode (.crcbUpd 0x12),
    decode_encode .crcbCalc, decode_encode .cascEnc, decode_encode .atsLochb, decode_encode .xcvBits,
    decode_encode .tgtSendb, decode_encode .lnkClose, decodeAbort_eq_instr.2 ⟨rfl, rfl⟩⟩

/-- Settles O5: the three classes of illegal words by `pattern_of_selects` and `word_of_selects`. -/
theorem illegalWordOnlySetsErr : Obligations.IllegalWordOnlySetsErr := by
  refine ⟨fun w hop => ?unlisted, fun w hbits h11 h21 => ?formatN, fun w hbits => ?formatI,
    fun s w c rest he hb hw => ?effect⟩
  case unlisted => exact illegal_of_not_selects fun r hr hs => hop r hr (pattern_of_selects hr hs)
  case formatN =>
    refine illegal_of_not_selects fun r hr hs => ?_
    obtain hw | ⟨hop, -⟩ := word_of_selects hr hs
    · exact hbits (hw ▸ setWidth_extractLsb'_high _ le_rfl)
    · exact hop.elim h11 h21
  case formatI =>
    refine illegal_of_not_selects fun r hr hs => hbits ?_
    obtain hw | ⟨-, b, hw⟩ := word_of_selects hr hs
    · rw [hw, setWidth_extractLsb'_high _ (by decide)]
    · rw [hw, wordI_extractLsb'_high _ _ le_rfl]
  case effect => exact (step_of_host he).trans (writeCmd_of_illegal hb hw)

end Sys2Proof.Machine
end

section
/-! The CRC step (spec/40_crc_a.md R100, R103, R107): its closed form, where it is zero, from which the bijectivity and
the residue follow, and the bit-serial register. -/

namespace Sys2Proof.Machine

/-! ### The two bytes of an accumulator -/

theorem half_eq_high_xor_low (c : Half) : c = (c >>> 8) <<< 8 ^^^ (c.setWidth 8).setWidth 16 := by
  apply BitVec.eq_of_getLsbD_eq
  intro i hi
  by_cases h : i < 8
  · simp [h, hi]
  · simp [h, hi, show 8 + (i - 8) = i by omega]

theorem half_high_eq_zero (c : Half) : (c >>> 8).extractLsb' 8 8 = 0 := by
  ext i
  have hbit : c.getLsbD (8 + (8 + i)) = false := BitVec.getLsbD_of_ge _ _ (by omega)
  simp [hbit]

theorem byte_setWidth_ushiftRight (b : Byte) : b.setWidth 16 >>> 8 = 0 := by
  ext i
  simp

/-! ### Linearity, and where the step is zero -/

/-- The step is linear in accumulator and byte together. -/
theorem crcStep_xor (c d : Half) (x y : Byte) : crcStep (c ^^^ d) (x ^^^ y) = crcStep c x ^^^ crcStep d y := by
  have hlow : x ^^^ y ^^^ (c ^^^ d).setWidth 8 = (x ^^^ c.setWidth 8) ^^^ (y ^^^ d.setWidth 8) := by
    rw [BitVec.setWidth_xor]; ac_rfl
  rw [crcStep_split (c ^^^ d), crcStep_split c, crcStep_split d, hlow, crcStep_zero_xor,
    BitVec.ushiftRight_xor_distrib]
  ac_rfl

/-- Stepping by its own low byte shifts the accumulator: the table's entry 0 is 0. -/
theorem crcStep_lowByte (c : Half) : crcStep c (c.setWidth 8) = c >>> 8 := by
  have hentry : crcStep 0 0 = 0 := rfl
  rw [crcStep_split, BitVec.xor_self]
  exact (congrArg (c >>> 8 ^^^ ·) hentry).trans BitVec.xor_zero

/-- The upper byte of a step by `b` is that of the table's entry `b xor c[7:0]`; where the step is zero that entry is
entry 0, and then what is left is `c[15:8]`. -/
theorem crcStep_eq_zero_iff {c : Half} {b : Byte} : crcStep c b = 0 ↔ c = b.setWidth 16 := by
  constructor
  · intro h
    have hentry : c >>> 8 = crcStep 0 (b ^^^ c.setWidth 8) := BitVec.xor_eq_zero_iff.1 (crcStep_split c b ▸ h)
    have hlow : b = c.setWidth 8 :=
      BitVec.xor_eq_zero_iff.1 (eq_zero_of_crcStep_high _ (hentry ▸ half_high_eq_zero c))
    have hhigh : c >>> 8 = 0 := by rw [← crcStep_lowByte, ← hlow, h]
    rw [half_eq_high_xor_low c, hhigh, ← hlow]
    simp
  · rintro rfl
    have hstep := crcStep_lowByte (b.setWidth 16)
    rwa [BitVec.setWidth_setWidth_of_le _ (by decide), BitVec.setWidth_eq, byte_setWidth_ushiftRight] at hstep

/-- Two steps meet exactly when the accumulators differ in the bits in which the bytes differ. -/
theorem crcStep_eq_crcStep_iff {c d : Half} {x y : Byte} :
    crcStep c x = crcStep d y ↔ c ^^^ d = (x ^^^ y).setWidth 16 := by
  rw [← crcStep_eq_zero_iff, crcStep_xor]
  exact BitVec.xor_eq_zero_iff.symm

theorem crcStep_injective_left (b : Byte) : Function.Injective fun c => crcStep c b := by
  intro c d h
  have hdiff := crcStep_eq_crcStep_iff.1 h
  rw [BitVec.xor_self] at hdiff
  exact BitVec.xor_eq_zero_iff.1 hdiff

theorem crcStep_injective_right (c : Half) : Function.Injective fun b => crcStep c b := by
  intro x y h
  have hdiff := crcStep_eq_crcStep_iff.1 h
  rw [BitVec.xor_self] at hdiff
  have hbyte : ((x ^^^ y).setWidth 16).setWidth 8 = (0 : Byte) := by rw [← hdiff]; rfl
  rw [BitVec.setWidth_setWidth_of_le _ (by decide), BitVec.setWidth_eq] at hbyte
  exact BitVec.xor_eq_zero_iff.1 hbyte

theorem crcOf_injective (bytes : List Byte) : Function.Injective fun seed => crcOf seed bytes := by
  induction bytes with
  | nil => exact Function.injective_id
  | cons b bs ih => exact ih.comp (crcStep_injective_left b)

/-- Stepping a register by its two bytes, low byte first, leaves 0 (law 6 of R107). -/
theorem crcOf_ownBytes (c : Half) : crcOf c [c.extractLsb' 0 8, c.extractLsb' 8 8] = 0 := by
  have hlow : c.extractLsb' 0 8 = c.setWidth 8 := (BitVec.setWidth_eq_extractLsb' (by decide)).symm
  have hhigh : c >>> 8 = (c.extractLsb' 8 8).setWidth 16 :=
    (BitVec.ushiftRight_eq_extractLsb'_of_lt (by decide)).trans (BitVec.setWidth_eq_append (by decide)).symm
  rw [crcOf_cons, crcOf_cons, crcOf_nil, hlow, crcStep_lowByte]
  exact crcStep_eq_zero_iff.2 hhigh

/-! ### The bit-serial register -/

/-- A byte may be XORed into the accumulator before the step (law 3 of R107). -/
theorem crcStep_eq_step_zero (c : Half) (b : Byte) : crcStep c b = crcStep (c ^^^ b.setWidth 16) 0 :=
  crcStep_eq_crcStep_iff.2 (by simp)

theorem serialRound_iterate_xor (n : Nat) (x y : Half) :
    serialRound^[n] (x ^^^ y) = serialRound^[n] x ^^^ serialRound^[n] y := by
  induction n with
  | zero => rfl
  | succ n ih => simp only [Function.iterate_succ_apply', ih, serialRound_xor]

theorem serialRound_of_even {c : Half} (h : c.getLsbD 0 = false) : serialRound c = c >>> 1 := by
  rw [serialRound, h]
  exact BitVec.xor_zero

/-- While the bits shifted out are 0 the register only shifts. -/
theorem serialRound_iterate_of_low_zero {c : Half} {n : Nat} (h : ∀ i < n, c.getLsbD i = false) :
    serialRound^[n] c = c >>> n := by
  induction n with
  | zero => simp
  | succ n ih =>
    have hshift := ih fun i hi => h i (by omega)
    have heven : (c >>> n).getLsbD 0 = false := by simpa using h n (by omega)
    rw [Function.iterate_succ_apply', hshift, serialRound_of_even heven, ← BitVec.shiftRight_add]

/-- The table of the step, by its 256 entries: eight rounds from a byte. -/
theorem serialRound_iterate_byte : ∀ b : Byte, serialRound^[8] (b.setWidth 16) = crcStep 0 b := by
  decide +kernel

theorem crcStep_zero_byte (x : Half) : crcStep x 0 = serialRound^[8] x := by
  have hhigh : serialRound^[8] ((x >>> 8) <<< 8) = ((x >>> 8) <<< 8) >>> 8 :=
    serialRound_iterate_of_low_zero fun i hi => by simp [hi]
  have hback : ((x >>> 8) <<< 8) >>> 8 = x >>> 8 := by
    apply BitVec.eq_of_getLsbD_eq
    intro i hi
    by_cases h : 8 + i < 16
    · simp [h]
    · simp [h, BitVec.getLsbD_of_ge x _ (by omega : 16 ≤ 8 + i)]
  calc crcStep x 0
      = x >>> 8 ^^^ crcStep 0 (x.setWidth 8) := by rw [crcStep_split]; simp
    _ = serialRound^[8] ((x >>> 8) <<< 8) ^^^ serialRound^[8] ((x.setWidth 8).setWidth 16) := by
      rw [hhigh, hback, serialRound_iterate_byte]
    _ = serialRound^[8] x := by rw [← serialRound_iterate_xor, ← half_eq_high_xor_low]

/-! ### 16 bits are enough -/

/-- A byte shifted by at most 8 places stays inside 16 bits. -/
theorem setWidth_shiftLeft_byte (b : Byte) {k : Nat} (hk : k ≤ 8) :
    (b.setWidth 16 <<< k).setWidth 32 = b.setWidth 32 <<< k := by
  ext i hi
  by_cases h : i < 16
  · simp [h]
  · have hbit : b.getLsbD (i - k) = false := BitVec.getLsbD_of_ge _ _ (by omega)
    simp [h, hbit]

/-! ### The obligations about the step -/

/-- Settles O20: the byte goes into the register first, and eight rounds of that are a step by 0. -/
theorem crcStepIsBitSerial : Obligations.CrcStepIsBitSerial := by
  intro c b
  rw [crcStep_eq_step_zero, crcStep_zero_byte, serialStep]

/-- Settles O22: on the finite set of accumulators an injection is a bijection; after the changed byte the two
registers differ, and equal bytes keep them apart. -/
theorem crcDetectsOneChangedByte : Obligations.CrcDetectsOneChangedByte := by
  refine ⟨fun b => Finite.injective_iff_bijective.1 (crcStep_injective_left b), crcStep_injective_right,
    fun seed p q x y hxy h => hxy ?_⟩
  rw [crcOf_append, crcOf_append] at h
  exact crcStep_injective_right _ (crcOf_injective q h)

/-- Settles O19: truncation, extension and the shift by a nibble, written as extraction and concatenation. -/
theorem crcStepFormula : Obligations.CrcStepFormula := by
  refine ⟨fun c b => ?_, rfl⟩
  have hlow : c.setWidth 8 = c.extractLsb' 0 8 := BitVec.setWidth_eq_extractLsb' (by decide)
  have hnibble (t : Byte) : t <<< 4 = t.extractLsb' 0 4 ++ 0#4 := BitVec.shiftLeft_eq_concat_of_lt (by decide)
  have hext (t : Byte) : t.setWidth 16 = 0#8 ++ t := BitVec.setWidth_eq_append (by decide)
  rw [crcStep, hlow, hnibble, hext]

/-- Settles O21: no term of the recurrence reaches above bit 15. -/
theorem sixteenBitsHoldTheCrc : Obligations.SixteenBitsHoldTheCrc := by
  intro c b
  have hlow : (c.setWidth 32).setWidth 8 = c.setWidth 8 := BitVec.setWidth_setWidth_of_le _ (by decide)
  simp only [crcStep32, crcStep, hlow]
  generalize (b ^^^ c.setWidth 8) ^^^ (b ^^^ c.setWidth 8) <<< 4 = t2
  simp [setWidth_shiftLeft_byte]

end Sys2Proof.Machine
end

section
/-! The two CRC units (spec/40_crc_a.md R101 to R109, spec/41_crc_b.md R121 to R125). Their commands differ in the
accumulator and the seed alone, so what they do is said once, for a unit. -/

namespace Sys2Proof.Machine

/-- The bytes of a buffer from index 0, read one by one. -/
theorem State.bufBytes_eq {s : State} {b : Buf} {v : List Byte} (h : ∀ i (hi : i < v.length), s.bufByte b i = v[i]) :
    s.bufBytes b v.length = v :=
  List.ext_getElem (s.length_bufBytes b _) fun i hi hv => (s.getElem_bufBytes b _ i hi).trans (h i hv)

/-! ### A unit and its commands -/

/-- One of the two CRC units. -/
inductive CrcUnit where
  | a
  | b

namespace CrcUnit

/-- The seed of a unit (R101, R121). -/
def seed : CrcUnit → Half
  | .a => Config.seedA
  | .b => Config.seedB

/-- `ACCA` or `ACCB`. -/
def acc (k : CrcUnit) (s : State) : Half :=
  match k with
  | .a => s.acca
  | .b => s.accb

/-- Write `ACCA` or `ACCB`. -/
def setAcc (k : CrcUnit) (c : Half) (s : State) : State :=
  match k with
  | .a => { s with acca := c }
  | .b => { s with accb := c }

/-- `CRCA.INIT` or `CRCB.INIT`. -/
def initCmd : CrcUnit → Instr
  | .a => .crcaInit
  | .b => .crcbInit

/-- `CRCA.UPD` or `CRCB.UPD`. -/
def updCmd : CrcUnit → Byte → Instr
  | .a => .crcaUpd
  | .b => .crcbUpd

/-- `CRCA.CALC` or `CRCB.CALC`. -/
def calcCmd : CrcUnit → Instr
  | .a => .crcaCalc
  | .b => .crcbCalc

/-- `CRCA.APPEND` or `CRCB.APPEND`. -/
def appendCmd : CrcUnit → Instr
  | .a => .crcaAppend
  | .b => .crcbAppend

/-- The state after a command that writes the unit's accumulator and `ERR = 0` alone. -/
def accumulated (k : CrcUnit) (c : Half) (s : State) : State := (k.setAcc c s).finish .success

/-- The bytes an append leaves in `DOUT`; neither unit has an output XOR (R106). -/
def appended (k : CrcUnit) (s : State) : List Byte := crcAppended k.seed 0 s.dinBytes

/-! ### What each command does -/

section Unit

variable (k : CrcUnit) {s t u : State}

/-- `INIT` (R101, R121). -/
theorem exec_init (hb : s.busy = false) : exec k.initCmd s = .next (k.accumulated k.seed s) := by
  cases k <;> exact whenIdle_of_idle hb

/-- `UPD` steps whatever the accumulator holds (R102, R122). -/
theorem exec_upd (hb : s.busy = false) (x : Byte) :
    exec (k.updCmd x) s = .next (k.accumulated (crcStep (k.acc s) x) s) := by
  cases k <;> exact whenIdle_of_idle hb

/-- `CALC` of a sequence that fits `DIN` (R104, R123). -/
theorem exec_calc (hb : s.busy = false) (h : s.dinlen.toNat ≤ 512) :
    exec k.calcCmd s = .next (k.accumulated (crcOf k.seed s.dinBytes) s) := by
  have hfits : ¬ s.dinN > Config.frameCap := h.not_gt
  cases k <;> exact (whenIdle_of_idle hb).trans (if_neg hfits)

/-- `CALC` of more than `DIN` holds (R104, R123). -/
theorem exec_calc_tooLong (hb : s.busy = false) (h : 512 < s.dinlen.toNat) :
    exec k.calcCmd s = raise .invalidArgument s := by
  have hlong : s.dinN > Config.frameCap := h
  cases k <;> exact (whenIdle_of_idle hb).trans (if_pos hlong)

/-- `APPEND` of a sequence whose result fits `DOUT` (R105, R124). -/
theorem exec_append (hb : s.busy = false) (h : s.dinlen.toNat ≤ 510) :
    exec k.appendCmd s =
      .next (State.finish .success (State.result (k.appended s) (k.setAcc (crcOf k.seed s.dinBytes) s))) := by
  have hfits : ¬ s.dinN > appendCap := h.not_gt
  cases k <;> exact (whenIdle_of_idle hb).trans (if_neg hfits)

/-- `APPEND` of a sequence whose result would not fit (R105, R124). -/
theorem exec_append_tooLong (hb : s.busy = false) (h : 510 < s.dinlen.toNat) :
    exec k.appendCmd s = raise .invalidArgument s := by
  have hlong : s.dinN > appendCap := h
  cases k <;> exact (whenIdle_of_idle hb).trans (if_pos hlong)

/-! ### Streaming -/

@[simp] theorem accumulated_busy (c : Half) : (k.accumulated c s).busy = s.busy := by
  cases k <;> rfl

@[simp] theorem acc_accumulated (c : Half) : k.acc (k.accumulated c s) = c := by
  cases k <;> rfl

@[simp] theorem accumulated_accumulated (c d : Half) : k.accumulated d (k.accumulated c s) = k.accumulated d s := by
  cases k <;> rfl

/-- One `UPD` per byte of a sequence accumulates the sequence's CRC. -/
theorem runAll_upd (hb : s.busy = false) (bytes : List Byte) (c : Half) :
    runAll (bytes.map k.updCmd) (k.accumulated c s) = .next (k.accumulated (crcOf c bytes) s) := by
  induction bytes generalizing c with
  | nil => rfl
  | cons x xs ih =>
    have hidle : (k.accumulated c s).busy = false := (k.accumulated_busy c).trans hb
    rw [List.map_cons, runAll, k.exec_upd hidle, k.acc_accumulated, k.accumulated_accumulated]
    exact ih (crcStep c x)

/-- Streaming and buffer computation end in the same state (law 1 of R107). -/
theorem streaming (hb : s.busy = false) (h : s.dinlen.toNat ≤ 512) :
    ∃ t, exec k.calcCmd s = .next t ∧ runAll (k.initCmd :: s.dinBytes.map k.updCmd) s = .next t := by
  refine ⟨_, k.exec_calc hb h, ?_⟩
  rw [runAll, k.exec_init hb]
  exact k.runAll_upd hb _ _

/-! ### Append -/

@[simp] theorem length_appended : (k.appended s).length = s.dinlen.toNat + 2 := by
  rw [CrcUnit.appended, length_crcAppended, State.length_dinBytes, State.dinN]

theorem appended_eq : k.appended s = s.dinBytes ++
    [(crcOf k.seed s.dinBytes).extractLsb' 0 8, (crcOf k.seed s.dinBytes).extractLsb' 8 8] :=
  crcAppended_eq k.seed s.dinBytes

/-- The result of an append: the bytes in `DOUT`, and the whole next state beside them (R105, R124). -/
theorem append_result (hb : s.busy = false) (h : s.dinlen.toNat ≤ 510) :
    ∃ t, exec k.appendCmd s = .next t ∧
      t = { k.accumulated (crcOf k.seed s.dinBytes) s with doutlen := s.dinlen + 2, mem := t.mem } ∧
      Stores .dout (k.appended s) s t := by
  have hlen : BitVec.ofNat 16 (k.appended s).length = s.dinlen + 2 := by
    rw [k.length_appended, BitVec.ofNat_add, BitVec.ofNat_toNat, BitVec.setWidth_eq]; rfl
  refine ⟨_, k.exec_append hb h, ?_, ?_⟩
  · rw [← hlen]; rfl
  · cases k <;> exact stores_of_writeBuf rfl rfl

/-- An append that ends with `ERR = 0` was not too long, and its result is the appended sequence. -/
theorem of_append_success (h : exec k.appendCmd s = .next t) (herr : t.err = 0) :
    (k.appended s).length ≤ 512 ∧ t.doutlen.toNat = (k.appended s).length ∧ Stores .dout (k.appended s) s t := by
  have hb : s.busy = false := by cases k <;> exact (whenIdle_eq_next.1 h).1
  by_cases hn : s.dinlen.toNat ≤ 510
  · obtain ⟨t', ht', hstate, hstores⟩ := k.append_result hb hn
    obtain rfl : t = t' := by simpa [h] using ht'
    have hdoutlen : t.doutlen = s.dinlen + 2 := congrArg State.doutlen hstate
    rw [k.length_appended, hdoutlen]
    exact ⟨by omega, by bv_omega, hstores⟩
  · rw [k.exec_append_tooLong hb (by omega)] at h
    cases h
    cases herr

/-- `CALC` over a sequence in `DIN` that ends in its own CRC leaves 0 (law 6 of R107). -/
theorem calc_of_appended (h : exec k.appendCmd s = .next t) (herr : t.err = 0) (hb : u.busy = false)
    (hlen : u.dinlen = t.doutlen) (hcopy : ∀ i, i < t.doutlen.toNat → u.bufByte .din i = t.bufByte .dout i) :
    exec k.calcCmd u = .next (k.accumulated 0 u) := by
  obtain ⟨hfits, hdoutlen, hstored, -, -⟩ := k.of_append_success h herr
  have hdinN : u.dinlen.toNat = (k.appended s).length := by rw [hlen, hdoutlen]
  have hbytes : u.dinBytes = k.appended s := by
    rw [State.dinBytes, State.dinN, hdinN]
    exact State.bufBytes_eq fun i hi => (hcopy i (hdoutlen ▸ hi)).trans (hstored i hi)
  rw [k.exec_calc hb (hdinN ▸ hfits), hbytes, k.appended_eq, crcOf_append, crcOf_ownBytes]

end Unit

end CrcUnit

/-! ### The obligations -/

/-- Settles O23: a register stepped by its own two bytes is 0, in the algebra and in `DIN`. -/
theorem appendedCrcHasZeroResidue : Obligations.AppendedCrcHasZeroResidue :=
  ⟨fun seed d => by rw [crcOf_append, crcOf_ownBytes],
    fun _ _ _ => CrcUnit.a.calc_of_appended, fun _ _ _ => CrcUnit.b.calc_of_appended⟩

/-- Settles O24, for each unit. -/
theorem streamingEqualsCalc : Obligations.StreamingEqualsCalc :=
  fun _ hb h => ⟨CrcUnit.a.streaming hb h, CrcUnit.b.streaming hb h⟩

/-- Settles O29, by what an append of a unit does on either side of the limit. -/
theorem crcaAppendResult : Obligations.CrcaAppendResult := by
  refine ⟨rfl, fun s hb => ⟨fun h => ?_, CrcUnit.a.exec_append_tooLong hb⟩⟩
  obtain ⟨t, ht, hstate, hstores⟩ := CrcUnit.a.append_result hb h
  exact ⟨t, ht, hstate, CrcUnit.a.appended_eq ▸ hstores⟩

/-- Settles O25; the word is format I with its two parts in the other order. -/
theorem crcaInitAndUpd : Obligations.CrcaInitAndUpd :=
  ⟨rfl, fun _ => BitVec.or_comm _ _, fun _ hb => ⟨CrcUnit.a.exec_init hb, CrcUnit.a.exec_upd hb⟩⟩

/-- Settles O27: the fold over the indices is the fold over the bytes. -/
theorem crcaCalcResult : Obligations.CrcaCalcResult := by
  refine ⟨rfl, fun s hb => ⟨fun h => ?_, CrcUnit.a.exec_calc_tooLong hb⟩⟩
  rw [← List.foldl_map]
  exact CrcUnit.a.exec_calc hb h

end Sys2Proof.Machine
end

section
/-! The CRCB statements (spec/41_crc_b.md R121 to R124): what the commands of a unit do, at unit B. -/

namespace Sys2Proof.Machine

/-- The CRC of `DIN[0..DINLEN]` as the loop over the indices that R104 and R123 write. -/
theorem crcOf_dinBytes (seed : Half) (s : State) :
    crcOf seed s.dinBytes = (List.range s.dinlen.toNat).foldl (fun acc i => crcStep acc (s.bufByte .din i)) seed :=
  List.foldl_map

/-- Settles O30, by what an append of a unit does on either side of the limit. The two last bytes are the accumulator
itself: this hardware's CRC-B has no final complement (R120, R126). -/
theorem crcbAppendResult : Obligations.CrcbAppendResult := by
  refine ⟨rfl, fun s hb => ⟨fun hfits => ?_, CrcUnit.b.exec_append_tooLong hb⟩⟩
  obtain ⟨t, hexec, hstate, hstores⟩ := CrcUnit.b.append_result hb hfits
  rw [CrcUnit.b.appended_eq] at hstores
  exact ⟨t, hexec, hstate, hstores⟩

/-- Settles O26; the word is format I with its two parts in the other order. -/
theorem crcbInitAndUpd : Obligations.CrcbInitAndUpd := by
  have hword (b : Byte) : encode (.crcbUpd b) = 0x21 ||| (b.setWidth 32 <<< 8) := BitVec.or_comm _ _
  exact ⟨rfl, hword, fun s hb => ⟨CrcUnit.b.exec_init hb, CrcUnit.b.exec_upd hb⟩⟩

/-- Settles O28, by what `CALC` of a unit does on either side of the limit. -/
theorem crcbCalcResult : Obligations.CrcbCalcResult := by
  refine ⟨rfl, fun s hb => ⟨fun hfits => ?_, CrcUnit.b.exec_calc_tooLong hb⟩⟩
  have hexec := CrcUnit.b.exec_calc hb hfits
  rw [crcOf_dinBytes] at hexec
  exact hexec

end Sys2Proof.Machine
end

section
/-! The UID cascade encoder (spec/42_uid_cascade.md R140, R142, R143): the encoder by the length of the UID, and the
command that runs it over `DIN[0..DINLEN]`. -/

namespace Sys2Proof.Machine

/-! ### The encoder, by the length of the UID -/

section Encoder

variable {uid : List Byte}

theorem cascade_of_length_seven (h : uid.length = 7) : cascade uid = Config.cascadeTag :: uid := by
  rw [cascade, if_pos h]

theorem cascade_of_length_ten (h : uid.length = 10) :
    cascade uid = Config.cascadeTag :: uid.take 3 ++ Config.cascadeTag :: uid.drop 3 := by
  rw [cascade, if_neg (by omega), if_pos h]

theorem cascade_of_other_length (h7 : uid.length ≠ 7) (h10 : uid.length ≠ 10) : cascade uid = uid := by
  rw [cascade, if_neg h7, if_neg h10]

/-- No result has a length that is tagged (R142). -/
theorem length_cascade_ne (uid : List Byte) : (cascade uid).length ≠ 7 ∧ (cascade uid).length ≠ 10 := by
  rw [length_cascade]
  split
  · decide
  · split
    · decide
    · exact ⟨‹_›, ‹_›⟩

theorem cascade_cascade (uid : List Byte) : cascade (cascade uid) = cascade uid :=
  have ⟨h7, h10⟩ := length_cascade_ne uid
  cascade_of_other_length h7 h10

/-- Behind the first tag of a 10-byte UID's result the second tag stands at index 3. -/
theorem take_append_tag_getElem? (h : uid.length = 10) (tag : Byte) :
    (uid.take 3 ++ tag :: uid.drop 3)[3]? = some tag := by
  have htake : (uid.take 3).length = 3 := List.length_take_of_le (by omega)
  rw [List.getElem?_append_right htake.le, htake]
  rfl

theorem take_append_tag_eraseIdx (h : uid.length = 10) (tag : Byte) :
    (uid.take 3 ++ tag :: uid.drop 3).eraseIdx 3 = uid := by
  have htake : (uid.take 3).length = 3 := List.length_take_of_le (by omega)
  rw [List.eraseIdx_append_of_length_le htake.le, htake]
  exact List.take_append_drop 3 uid

end Encoder

/-! ### The command -/

section Command

variable {s : State}

/-- `CASC.ENC` of a sequence that fits `DIN` (R140). -/
theorem exec_cascEnc (hb : s.busy = false) (h : s.dinlen.toNat ≤ 512) :
    exec .cascEnc s = .next (State.finish .success (s.result (cascade s.dinBytes))) := by
  have hfits : ¬ s.dinN > Config.frameCap := h.not_gt
  exact (whenIdle_of_idle hb).trans (if_neg hfits)

/-- `CASC.ENC` of more than `DIN` holds (R140). -/
theorem exec_cascEnc_tooLong (hb : s.busy = false) (h : 512 < s.dinlen.toNat) :
    exec .cascEnc s = raise .invalidArgument s := by
  have hlong : s.dinN > Config.frameCap := h
  exact (whenIdle_of_idle hb).trans (if_pos hlong)

theorem State.length_dinBytes_eq_iff (s : State) {n : Nat} (hn : n < 2 ^ 16) :
    s.dinBytes.length = n ↔ s.dinlen = BitVec.ofNat 16 n := by
  rw [s.length_dinBytes, State.dinN, BitVec.toNat_eq, BitVec.toNat_ofNat, Nat.mod_eq_of_lt hn]

/-- The value `CASC.ENC` leaves in `DOUTLEN` (R140). -/
theorem ofNat_length_cascade_dinBytes (s : State) :
    BitVec.ofNat 16 (cascade s.dinBytes).length =
      if s.dinlen = 7 then 8 else if s.dinlen = 10 then 12 else s.dinlen := by
  have h7 : s.dinBytes.length = 7 ↔ s.dinlen = 7 := s.length_dinBytes_eq_iff (by decide)
  have h10 : s.dinBytes.length = 10 ↔ s.dinlen = 10 := s.length_dinBytes_eq_iff (by decide)
  have hother : BitVec.ofNat 16 s.dinBytes.length = s.dinlen := by
    rw [s.length_dinBytes, State.dinN, BitVec.ofNat_toNat, BitVec.setWidth_eq]
  simp only [length_cascade, h7, h10, apply_ite (BitVec.ofNat 16), hother]
  rfl

/-- The bytes `CASC.ENC` leaves in `DOUT`, read from `DIN` one by one as R140 writes them. -/
theorem cascade_dinBytes (s : State) :
    cascade s.dinBytes =
      if s.dinlen = 7 then 0x88#8 :: s.dinBytes
      else if s.dinlen = 10 then
        0x88#8 :: s.bufByte .din 0 :: s.bufByte .din 1 :: s.bufByte .din 2 :: 0x88#8 ::
          (List.range 7).map (fun i => s.bufByte .din (3 + i))
      else s.dinBytes := by
  have h7 : s.dinBytes.length = 7 ↔ s.dinlen = 7 := s.length_dinBytes_eq_iff (by decide)
  have h10 : s.dinBytes.length = 10 ↔ s.dinlen = 10 := s.length_dinBytes_eq_iff (by decide)
  split
  case isTrue hseven => exact cascade_of_length_seven (h7.2 hseven)
  case isFalse hseven =>
    split
    case isTrue hten =>
      have hbytes : s.dinBytes = s.bufBytes .din 10 := by rw [State.dinBytes, State.dinN, hten]; rfl
      rw [cascade_of_length_ten (h10.2 hten), hbytes]
      rfl
    case isFalse hten => exact cascade_of_other_length (h7.not.2 hseven) (h10.not.2 hten)

end Command

/-! ### The obligations -/

/-- Settles O31: the command's result is the encoder's, whose bytes and length `cascade_dinBytes` and
`ofNat_length_cascade_dinBytes` give. -/
theorem cascEncResult : Obligations.CascEncResult := by
  refine ⟨rfl, fun s hb => ⟨fun hfits => ?_, exec_cascEnc_tooLong hb⟩⟩
  refine ⟨_, exec_cascEnc hb hfits, ?state, ?stores⟩
  case state =>
    rw [← ofNat_length_cascade_dinBytes s]
    rfl
  case stores => exact cascade_dinBytes s ▸ stores_of_writeBuf rfl rfl

/-- Settles O32: a result's length is never tagged again; without its tags a UID is its first three bytes and the
rest. -/
theorem cascadeIdempotentAndReversible : Obligations.CascadeIdempotentAndReversible := by
  refine ⟨cascade_cascade, fun uid h => ?seven, fun uid h => ?ten⟩
  case seven =>
    rw [cascade_of_length_seven h]
    exact ⟨congrArg (· + 1) h, rfl, rfl⟩
  case ten =>
    have hlen : (cascade uid).length = 12 := by rw [length_cascade, h]; rfl
    rw [cascade_of_length_ten h] at hlen ⊢
    exact ⟨hlen, rfl, take_append_tag_getElem? h _, take_append_tag_eraseIdx h _⟩

end Sys2Proof.Machine
end

section
/-! The historical-bytes locator (spec/43_ats_locator.md R150, R152, R154): the indicator terms, the offset and the
historical bytes of a sequence, and the command that runs the locator over `DIN[0..DINLEN]`. -/

namespace Sys2Proof.Machine

/-! ### The offset and the historical bytes of a sequence -/

section Locator

variable {ats hb : List Byte}

theorem historicalOffset_of_pos (h : 0 < ats.length) :
    historicalOffset ats = 1 + indicator ats 0 0x10 + indicator ats 1 0x20 + indicator ats 2 0x40 :=
  if_neg h.ne'

theorem one_le_historicalOffset (h : 0 < ats.length) : 1 ≤ historicalOffset ats := by
  rw [historicalOffset_of_pos h]
  omega

/-- A pair's third byte is absent and counts 0 (R151), so its offset is 1 exactly when both indicator bits are clear. -/
theorem historicalOffset_pair_lt_two_iff (a b : Byte) :
    historicalOffset [a, b] < 2 ↔ a &&& 0x10 = 0 ∧ b &&& 0x20 = 0 := by
  have hoff : historicalOffset [a, b] =
      1 + (if a &&& 0x10 ≠ 0 then 1 else 0) + (if b &&& 0x20 ≠ 0 then 1 else 0) := rfl
  have hterms (x y : Nat) : 1 + x + y < 2 ↔ x = 0 ∧ y = 0 := by omega
  rw [hoff, hterms]
  simp only [ite_eq_right_iff, one_ne_zero, imp_false, not_not]

theorem historicalOffset_cons_cons_cons (a b c : Byte) (rest : List Byte) :
    historicalOffset (a :: b :: c :: rest) =
      1 + (if a &&& 0x10 ≠ 0 then 1 else 0) + (if b &&& 0x20 ≠ 0 then 1 else 0) +
        (if c &&& 0x40 ≠ 0 then 1 else 0) := rfl

theorem historicalBytes_of_le (h : ats.length ≤ historicalOffset ats) : historicalBytes ats = none := if_pos h

theorem historicalBytes_of_lt (h : historicalOffset ats < ats.length) :
    historicalBytes ats = some (ats.drop (historicalOffset ats)) := if_neg h.not_ge

theorem historicalBytes_isSome_iff : (historicalBytes ats).isSome = true ↔ historicalOffset ats < ats.length := by
  rcases Nat.lt_or_ge (historicalOffset ats) ats.length with h | h
  · simp [historicalBytes_of_lt h, h]
  · simp [historicalBytes_of_le h, h]

theorem historicalBytes_eq_some_iff :
    historicalBytes ats = some hb ↔ historicalOffset ats < ats.length ∧ ats.drop (historicalOffset ats) = hb := by
  rcases Nat.lt_or_ge (historicalOffset ats) ats.length with h | h
  · simp [historicalBytes_of_lt h, h]
  · simp [historicalBytes_of_le h, h]

/-- Where there are no historical bytes the offset is past the end, and nothing is left behind it either. -/
theorem historicalBytes_getD_nil (ats : List Byte) :
    (historicalBytes ats).getD [] = ats.drop (historicalOffset ats) := by
  rcases Nat.lt_or_ge (historicalOffset ats) ats.length with h | h
  · rw [historicalBytes_of_lt h, Option.getD_some]
  · rw [historicalBytes_of_le h, Option.getD_none, List.drop_eq_nil_of_le h]

end Locator

/-! ### The bytes of a buffer -/

theorem indicator_bufBytes (s : State) (b : Buf) (n i : Nat) (mask : Byte) :
    indicator (s.bufBytes b n) i mask = if i < n ∧ s.bufByte b i &&& mask ≠ 0 then 1 else 0 := by
  unfold indicator
  by_cases h : i < n
  · have hpresent : (s.bufBytes b n)[i]? = some (s.bufByte b i) := by simp [State.bufBytes, h]
    simp only [hpresent, h, true_and]
  · have habsent : (s.bufBytes b n)[i]? = none := by simp [h]
    simp only [habsent, h, false_and, if_false]

theorem State.drop_bufBytes (s : State) (b : Buf) (n k : Nat) :
    (s.bufBytes b n).drop k = (List.range (n - k)).map (fun i => s.bufByte b (k + i)) :=
  List.ext_getElem (by simp) fun i _ _ => by simp [State.bufBytes]

/-! ### The command -/

section Command

variable {s : State}

/-- The offset in a sequence in `DIN`, read byte by byte as R150 writes it. -/
theorem historicalOffset_dinBytes (h : 0 < s.dinlen.toNat) :
    historicalOffset s.dinBytes =
      1 + (if s.bufByte .din 0 &&& 0x10 ≠ 0 then 1 else 0) +
        (if 1 < s.dinlen.toNat ∧ s.bufByte .din 1 &&& 0x20 ≠ 0 then 1 else 0) +
        (if 2 < s.dinlen.toNat ∧ s.bufByte .din 2 &&& 0x40 ≠ 0 then 1 else 0) := by
  rw [historicalOffset_of_pos (s.length_dinBytes.symm ▸ h)]
  simp only [State.dinBytes, State.dinN, indicator_bufBytes, h, true_and]

/-- The state `ATS.LOCHB` leaves when the sequence fits `DIN` (R150). -/
def State.located (s : State) : State :=
  State.finish .success
    (State.setHbvalid (historicalBytes s.dinBytes).isSome
      (State.result (s.dinBytes.drop (historicalOffset s.dinBytes))
        { s with hboff := BitVec.ofNat 16 (historicalOffset s.dinBytes) }))

/-- `ATS.LOCHB` of a sequence that fits `DIN` (R150). -/
theorem exec_atsLochb (hb : s.busy = false) (h : s.dinlen.toNat ≤ 512) :
    exec .atsLochb s = .next s.located := by
  have hfits : ¬ s.dinN > Config.frameCap := h.not_gt
  rw [State.located, ← historicalBytes_getD_nil]
  exact (whenIdle_of_idle hb).trans (if_neg hfits)

/-- `ATS.LOCHB` of more than `DIN` holds (R150). -/
theorem exec_atsLochb_tooLong (hb : s.busy = false) (h : 512 < s.dinlen.toNat) :
    exec .atsLochb s = raise .invalidArgument s := by
  have hlong : s.dinN > Config.frameCap := h
  exact (whenIdle_of_idle hb).trans (if_pos hlong)

/-- What `ATS.LOCHB` writes: `HBOFF`, `DOUTLEN`, `ERR`, and within `STATUS` and the memory what the lemmas below
say. -/
theorem State.located_eq (s : State) :
    s.located = { s with
      status := s.located.status, hboff := BitVec.ofNat 16 (historicalOffset s.dinBytes),
      doutlen := BitVec.ofNat 16 (s.dinlen.toNat - historicalOffset s.dinBytes), err := 0,
      mem := s.located.mem } := by
  have hlen : (s.dinBytes.drop (historicalOffset s.dinBytes)).length =
      s.dinlen.toNat - historicalOffset s.dinBytes := by
    rw [List.length_drop, State.length_dinBytes, State.dinN]
  rw [← hlen]
  rfl

theorem State.located_hbvalid_iff : s.located.hbvalid = true ↔ historicalOffset s.dinBytes < s.dinlen.toNat := by
  rw [State.located, State.finish_hbvalid, State.setHbvalid_hbvalid, historicalBytes_isSome_iff, State.length_dinBytes,
    State.dinN]

/-- Of the flags `ATS.LOCHB` writes `HBVALID` alone. -/
theorem State.located_flags (s : State) :
    s.located.busy = s.busy ∧ s.located.isOpen = s.isOpen ∧ s.located.abtp = s.abtp :=
  ⟨State.setHbvalid_busy _ _, State.setHbvalid_isOpen _ _, State.setHbvalid_abtp _ _⟩

theorem State.located_stores (s : State) :
    Stores .dout (s.dinBytes.drop (historicalOffset s.dinBytes)) s s.located :=
  stores_of_writeBuf rfl rfl

theorem dinBytes_of_dinlen_zero (h : s.dinlen = 0) : s.dinBytes = [] := by
  rw [State.dinBytes, State.dinN, h]
  rfl

end Command

/-! ### The obligations -/

/-- Settles O33: the offset and the bytes of `State.located` are the locator's over `DIN[0..DINLEN]`, by
`historicalOffset_dinBytes` and `State.drop_bufBytes`. -/
theorem atsLochbResult : Obligations.AtsLochbResult := by
  refine ⟨rfl, fun s hb => ⟨fun hzero => ?empty, fun hpos hfits => ?located, exec_atsLochb_tooLong hb⟩⟩
  case empty =>
    have hnil : s.dinBytes = [] := dinBytes_of_dinlen_zero hzero
    have hn : s.dinlen.toNat = 0 := congrArg BitVec.toNat hzero
    have hmem : s.located.mem = s.mem := by rw [State.located, hnil]; rfl
    have hstate := s.located_eq
    rw [hmem, hnil, hn] at hstate
    have hflag : s.located.hbvalid = false := by
      rw [Bool.eq_false_iff, ne_eq, State.located_hbvalid_iff, hn]
      exact Nat.not_lt_zero _
    exact ⟨_, exec_atsLochb hb (by omega), hstate, hflag, s.located_flags⟩
  case located =>
    intro n off
    have hoff : historicalOffset s.dinBytes = off := historicalOffset_dinBytes hpos
    have hbytes : s.dinBytes.drop off = (List.range (n - off)).map (fun i => s.bufByte .din (off + i)) :=
      s.drop_bufBytes .din n off
    obtain ⟨hbusy, hopen, habtp⟩ := s.located_flags
    exact ⟨_, exec_atsLochb hb hfits, hoff ▸ s.located_eq, hoff ▸ State.located_hbvalid_iff, hbusy, hopen, habtp,
      hbytes ▸ hoff ▸ s.located_stores⟩

/-- Settles O34: there are historical bytes exactly when the offset is below the length, and the offset is 1 and
three indicator terms. -/
theorem historicalBytesByLength : Obligations.HistoricalBytesByLength := by
  refine ⟨fun ats h => ?zero, fun ats h => ⟨one_le_historicalOffset h, historicalOffset_le ats⟩,
    fun ats h => ?one, fun a b => ?two, fun ats h => ?three, fun ats _ => historicalBytes_isSome_iff,
    fun ats hb h => ?nonempty, fun a b c a' b' c' rest rest' ha hb hc => ?bits⟩
  case zero =>
    obtain rfl : ats = [] := List.length_eq_zero_iff.1 h
    exact ⟨rfl, rfl⟩
  case one =>
    have hoff : 1 ≤ historicalOffset ats := one_le_historicalOffset (by omega)
    exact historicalBytes_of_le (h.le.trans hoff)
  case two => exact historicalBytes_isSome_iff.trans (historicalOffset_pair_lt_two_iff a b)
  case three => rw [historicalBytes_isSome_iff, h, Nat.lt_succ_iff]
  case nonempty =>
    obtain ⟨hlt, rfl⟩ := historicalBytes_eq_some_iff.1 h
    refine ⟨rfl, ?_⟩
    rw [List.length_drop]
    omega
  case bits => rw [historicalOffset_cons_cons_cons, historicalOffset_cons_cons_cons, ha, hb, hc]

end Sys2Proof.Machine
end

section
/-! The link commands (spec/44_transceive_initiator.md): one account of the nine issue steps and of the completion step,
and the two receive procedures. -/

namespace Sys2Proof.Machine

/-! ### The issue step of the nine link commands (R164, R166) -/

/-- The local checks of a link command after check 1, the device check that all nine begin with (R166's table). -/
def LinkOp.operandChecks : LinkOp → List LocalCheck
  | .xcvBytes => [.dinFits, .rxcapFits, .timeoutLegal]
  | .xcvBytesT => [.dinFits, .rxcapFits]
  | .xcvBits => [.dinFits, .pinFits, .rxcapFits, .rxpcapFits, .txPrecondition, .rxPrecondition]
  | .xcvBitsT => [.dinFits, .pinFits, .rxcapFits, .rxpcapFits, .txPrecondition, .rxPrecondition]
  | .tgtInit => [.rxcapFits, .timeoutLegal]
  | .tgtSendb => [.dinFits, .timeoutLegal]
  | .tgtRecvb => [.rxcapFits, .timeoutLegal]
  | .tgtSendbits => [.dinFits, .pinFits, .txPrecondition]
  | .tgtRecvbits => [.rxcapFits, .rxpcapFits, .rxPrecondition]

/-- The request a link command hands to the link (R174 to R177, R191 to R195). -/
def LinkOp.request : LinkOp → State → LinkReq
  | .xcvBytes => reqXcvBytes
  | .xcvBytesT => reqXcvBytesT
  | .xcvBits => reqXcvBits
  | .xcvBitsT => reqXcvBitsT
  | .tgtInit => reqTgtInit
  | .tgtSendb => reqTgtSendb
  | .tgtRecvb => reqTgtRecvb
  | .tgtSendbits => reqTgtSendbits
  | .tgtRecvbits => reqTgtRecvbits

/-- The operands a link command reads pass its checks. -/
def LinkOp.OperandsLegal (op : LinkOp) (s : State) : Prop := ∀ c ∈ op.operandChecks, c.passes s = true

/-- Every link command is an issue step whose first check is the device check. -/
theorem exec_linkCommand (op : LinkOp) (s : State) :
    exec (linkCommand op) s = issue op (.deviceOpen :: op.operandChecks) op.request s := by
  cases op <;> rfl

theorem LinkOp.deviceOpen_notMem_operandChecks (op : LinkOp) : .deviceOpen ∉ op.operandChecks := by
  cases op <;> decide

section Issue

variable {op : LinkOp} {s : State}

/-- A link command on a closed device writes `DeviceClosed` and nothing else. -/
theorem exec_linkCommand_closed (hb : s.busy = false) (ho : s.isOpen = false) :
    exec (linkCommand op) s = .next { s with err := 14 } :=
  (exec_linkCommand op s).trans (issue_of_closed hb ho)

/-- A link command with an illegal operand on an open device writes `InvalidArgument` and nothing else. -/
theorem exec_linkCommand_illegal (hb : s.busy = false) (ho : s.isOpen = true) (h : ¬ op.OperandsLegal s) :
    exec (linkCommand op) s = .next { s with err := 2 } :=
  (exec_linkCommand op s).trans (issue_of_badOperand hb ho op.deviceOpen_notMem_operandChecks h)

/-- A link command with legal operands on an open device goes `BUSY` with its request at the link. -/
theorem exec_linkCommand_issued (hb : s.busy = false) (ho : s.isOpen = true) (h : op.OperandsLegal s) :
    ∃ t, exec (linkCommand op) s = .next t ∧ WentBusy op.opcode (op.request s) s t :=
  ⟨_, (exec_linkCommand op s).trans (issue_of_checks hb ho op.deviceOpen_notMem_operandChecks h),
    wentBusy_goBusy _ _ _⟩

end Issue

/-! ### The operands of the initiator's commands -/

section Operands

variable {s : State}

theorem operandsLegal_xcvBytes :
    LinkOp.xcvBytes.OperandsLegal s ↔ s.dinlen.toNat ≤ 512 ∧ s.rxcap.toNat ≤ 512 ∧ -1 ≤ s.timeout.toInt := by
  simp [LinkOp.OperandsLegal, LinkOp.operandChecks]

theorem operandsLegal_xcvBytesT :
    LinkOp.xcvBytesT.OperandsLegal s ↔ s.dinlen.toNat ≤ 512 ∧ s.rxcap.toNat ≤ 512 := by
  simp [LinkOp.OperandsLegal, LinkOp.operandChecks]

/-- The operands of `XCV.BITS` that R176 admits: `tx_pre`, `rx_pre` and the four bounds (R166 to R168). -/
theorem operandsLegal_xcvBits :
    LinkOp.xcvBits.OperandsLegal s ↔ s.dinlen.toNat ≤ 512 ∧ s.pinlen.toNat ≤ 512 ∧ s.rxcap.toNat ≤ 512 ∧
      s.rxpcap.toNat ≤ 512 ∧ (s.pinlen = s.dinlen ∧ s.txbits.toNat ≤ s.dinlen.toNat * 8) ∧
      s.rxpcap = s.rxcap ∧ s.rxcapbits.toNat ≤ s.rxcap.toNat * 8 := by
  simp [LinkOp.OperandsLegal, LinkOp.operandChecks]

/-- The timed bit command checks what the untimed one checks (R177). -/
theorem operandsLegal_xcvBitsT : LinkOp.xcvBitsT.OperandsLegal s ↔ LinkOp.xcvBits.OperandsLegal s := Iff.rfl

/-- The ways an operand of a bit exchange can be illegal. -/
theorem not_operandsLegal_xcvBits
    (h : 512 < s.dinlen.toNat ∨ 512 < s.pinlen.toNat ∨ 512 < s.rxcap.toNat ∨ 512 < s.rxpcap.toNat ∨
      s.pinlen ≠ s.dinlen ∨ s.dinlen.toNat * 8 < s.txbits.toNat ∨ s.rxpcap ≠ s.rxcap ∨
      s.rxcap.toNat * 8 < s.rxcapbits.toNat) :
    ¬ LinkOp.xcvBits.OperandsLegal s := by
  rw [operandsLegal_xcvBits]
  rintro ⟨hdin, -, hrx, -, ⟨hpd, htx⟩, hrr, hbits⟩
  simp only [hpd, hrr, ne_eq, not_true_eq_false, false_or] at h
  omega

/-- Equal lengths carry the bounds of `DINLEN` and `RXCAP` to their parity registers. -/
theorem operandsLegal_xcvBits_of_eq (hdin : s.dinlen.toNat ≤ 512) (hpd : s.pinlen = s.dinlen)
    (htx : s.txbits.toNat ≤ s.dinlen.toNat * 8) (hrx : s.rxcap.toNat ≤ 512) (hrr : s.rxpcap = s.rxcap)
    (hbits : s.rxcapbits.toNat ≤ s.rxcap.toNat * 8) : LinkOp.xcvBits.OperandsLegal s :=
  operandsLegal_xcvBits.2 ⟨hdin, hpd ▸ hdin, hrx, hrr ▸ hrx, ⟨hpd, htx⟩, hrr, hbits⟩

end Operands

/-! ### The completion step (R161, R165, R173) -/

theorem thenNext_thenNext (o : Outcome) (f g : State → State) :
    thenNext (thenNext o f) g = thenNext o (fun t => g (f t)) := by
  cases o <;> rfl

theorem complete_of_idle {s : State} (hb : s.busy = false) (rsp : LinkRsp) : complete rsp s = .next s :=
  if_neg (Bool.eq_false_iff.1 hb)

/-- The shape is looked at before the code: a failing response of the wrong shape is refused as well (log 9). -/
theorem complete_of_illShaped {rsp : LinkRsp} {s : State} {op : LinkOp} (hb : s.busy = true) (hp : s.pend = op.opcode)
    (hs : rsp.hasShape op.shape = false) : complete rsp s = .refused .illShapedResponse := by
  rw [complete, if_pos hb, hp, LinkOp.ofOpcode_opcode]
  exact if_neg (Bool.eq_false_iff.1 hs)

section Response

variable {s : State} {rsp : LinkRsp} {rest : List Event} {op : LinkOp}

theorem step_of_response (h : s.events = .link rsp :: rest) : step s = complete rsp { s with events := rest } :=
  step_of_events h

/-- The step in which the link answers a pending command. -/
theorem step_of_pending (hb : s.busy = true) (hp : s.pend = op.opcode) (h : s.events = .link rsp :: rest)
    (hs : rsp.hasShape op.shape = true) :
    step s = thenNext (completionRule op rsp { s with events := rest }) State.endPending :=
  (step_of_response h).trans (complete_of_pending hb hp hs)

/-- A completion whose capacities fit ends with nothing pending, and with `CYCLES` as R173 says. -/
theorem complete_cycles (hb : s.busy = true) (hp : s.pend = op.opcode) (hs : rsp.hasShape op.shape = true)
    (hc : s.capacitiesFit op.shape) :
    ∃ t, complete rsp s = .next t ∧ t.busy = false ∧ t.cycles = cyclesAfter op rsp s := by
  obtain ⟨u, hu⟩ := completionRule_completes op rsp hc
  obtain ⟨v, -, rfl⟩ := completionRule_received hu
  refine ⟨_, (complete_of_pending hb hp hs).trans (congrArg (thenNext · State.endPending) hu), ?_, rfl⟩
  exact State.endPending_busy _

end Response

/-! ### The receive procedures (R169 to R171) -/

section Receive

variable {rsp : LinkRsp} {s : State}

theorem recvBytes_of_failure (h : rsp.code ≠ .success) :
    recvBytes rsp s = .next { s with doutlen := 0, err := rsp.code.kind.code } := if_pos h

theorem recvBytes_of_fits (h : rsp.code = .success) (hfits : rsp.data.length ≤ s.rxcap.toNat) :
    recvBytes rsp s = deliverBytes rsp.data .success s :=
  (if_neg (not_not.2 h)).trans (if_neg hfits.not_gt)

theorem recvBytes_of_overflow (h : rsp.code = .success) (hlong : s.rxcap.toNat < rsp.data.length) :
    recvBytes rsp s = deliverBytes (rsp.data.take s.rxcap.toNat) .overflow s :=
  (if_neg (not_not.2 h)).trans (if_pos hlong)

theorem recvBits_of_failure (h : rsp.code ≠ .success) :
    recvBits rsp s = .next { s with doutlen := 0, poutlen := 0, rxbits := 0, err := rsp.code.kind.code } := if_pos h

theorem recvBits_of_fits (h : rsp.code = .success) (hfits : rsp.nbits ≤ s.rxcapbits.toNat) :
    recvBits rsp s = deliverBits rsp.data rsp.par (ceil8 rsp.nbits) rsp.nbits .success s :=
  (if_neg (not_not.2 h)).trans (if_neg hfits.not_gt)

theorem recvBits_of_overflow (h : rsp.code = .success) (hlong : s.rxcapbits.toNat < rsp.nbits) :
    recvBits rsp s =
      deliverBits rsp.data rsp.par (ceil8 s.rxcapbits.toNat) s.rxcapbits.toNat .overflow s :=
  (if_neg (not_not.2 h)).trans (if_pos hlong)

/-- A delivery of bytes stores them in `DOUT` and writes `DOUTLEN` and `ERR` (R169). -/
theorem deliverBytes_stores {v : List Byte} (hv : v.length ≤ 512) (k : ErrKind) (s : State) :
    ∃ t, deliverBytes v k s = .next t ∧
      t = { s with doutlen := BitVec.ofNat 16 v.length, err := k.code, mem := t.mem } ∧ Stores .dout v s t :=
  ⟨_, deliverBytes_of_le hv k s, rfl, stores_of_writeBuf rfl rfl⟩

/-- A delivery of bits stores `m` bytes of data and of parity and writes the lengths, `RXBITS` and `ERR` (R170). -/
theorem deliverBits_stores {m : Nat} (hm : m ≤ 512) (v p : List Byte) (n : Nat) (k : ErrKind) (s : State) :
    ∃ t, deliverBits v p m n k s = .next t ∧
      t = { s with
        doutlen := BitVec.ofNat 16 m, poutlen := BitVec.ofNat 16 m, rxbits := BitVec.ofNat 16 n, err := k.code,
        mem := t.mem } ∧
      StoresTwo .dout (v.take m) .pout (p.take m) s t :=
  ⟨_, deliverBits_of_le hm v p n k s, rfl, storesTwo_of_writeBuf ((List.length_take_le m v).trans hm) rfl rfl⟩

/-- A bit response carries its bits in `ceil8` of their number of bytes, data and parity alike (R161). -/
theorem LinkRsp.hasShape_bits_iff :
    rsp.hasShape .bits = true ↔ rsp.data.length = ceil8 rsp.nbits ∧ rsp.par.length = ceil8 rsp.nbits := by
  simp only [LinkRsp.hasShape, Bool.and_eq_true, beq_iff_eq]

theorem ceil8_mono {m n : Nat} (h : m ≤ n) : ceil8 m ≤ ceil8 n :=
  Nat.div_le_div_right (Nat.add_le_add_right h 7)

/-- A capacity of at most 4096 bits is one of at most 512 bytes. -/
theorem ceil8_le_frame {n : Nat} (h : n ≤ 4096) : ceil8 n ≤ 512 := ceil8_mono h

end Receive

/-! ### Requests (R160) -/

/-- An operation hands the link nothing, or one request within the record's bounds. -/
theorem Effect.toLink {i : Instr} {s t : State} (h : Effect i s t) :
    t.toLink = s.toLink ∨ ∃ q : LinkReq, q.wellFormed = true ∧ t.toLink = s.toLink ++ [q] := by
  cases h with
  | issued op _ q hb ho hq hc => exact .inr ⟨q, hq, rfl⟩
  | opened => exact .inr ⟨reqLnkOpen, by decide, rfl⟩
  | notOpened => exact .inr ⟨reqLnkOpen, by decide, rfl⟩
  | closed => exact .inr ⟨reqLnkClose, by decide, rfl⟩
  | aborted => exact .inr ⟨reqAbort, by decide, rfl⟩
  | _ => exact .inl rfl

/-! ### The obligations -/

/-- Settles O44: a response that fits is no longer than `RXCAP`, and one that is cut has exactly that length. -/
theorem recvBytesDelivers : Obligations.RecvBytesDelivers := by
  refine fun rsp s => ⟨recvBytes_of_failure, fun hc hcap hfits => ?fits, fun hc hcap hlong => ?overflow⟩
  case fits =>
    rw [recvBytes_of_fits hc hfits]
    exact deliverBytes_stores (hfits.trans hcap) .success s
  case overflow =>
    have hlen : (rsp.data.take s.rxcap.toNat).length = s.rxcap.toNat := List.length_take_of_le hlong.le
    have hstored := deliverBytes_stores (hlen.le.trans hcap) .overflow s
    rw [hlen, BitVec.ofNat_toNat, BitVec.setWidth_eq] at hstored
    rw [recvBytes_of_overflow hc hlong]
    exact hstored

/-- Settles O45: by its shape a bit response that fits is stored whole, and one that is cut has the bytes that
`RXCAPBITS` bits take. -/
theorem recvBitsDelivers : Obligations.RecvBitsDelivers := by
  refine fun rsp s => ⟨recvBits_of_failure, fun hc hs hcap hfits => ?fits, fun hc hs hcap hlong => ?overflow⟩
  all_goals obtain ⟨hdata, hpar⟩ := LinkRsp.hasShape_bits_iff.1 hs
  case fits =>
    have hstored := deliverBits_stores (ceil8_le_frame (hfits.trans hcap)) rsp.data rsp.par rsp.nbits .success s
    rw [List.take_of_length_le hdata.le, List.take_of_length_le hpar.le] at hstored
    rw [recvBits_of_fits hc hfits]
    exact hstored
  case overflow =>
    obtain ⟨t, ht, hstate, hstores⟩ :=
      deliverBits_stores (ceil8_le_frame hcap) rsp.data rsp.par s.rxcapbits.toNat .overflow s
    rw [BitVec.ofNat_toNat, BitVec.setWidth_eq] at hstate
    exact ⟨t, (recvBits_of_overflow hc hlong).trans ht, hstate, hdata ▸ ceil8_mono hlong.le, hstores⟩

/-- Settles O47. -/
theorem cyclesReturnedByTimedCommands : Obligations.CyclesReturnedByTimedCommands :=
  fun _ _ _ => complete_cycles

/-- Settles O59: by the inversion of `exec`, effect by effect. -/
theorem requestsKeepTheirBounds : Obligations.RequestsKeepTheirBounds :=
  fun _ _ _ h => (exec_effect h).toLink

/-- Settles O35. -/
theorem xcvBytesIssueAndCompletion : Obligations.XcvBytesIssueAndCompletion := by
  refine ⟨rfl, fun s => ⟨exec_linkCommand_closed (op := .xcvBytes), fun hb ho hbad => ?illegal,
    fun hb ho hdin hrx htime => ?issued, fun rsp rest => step_of_pending (op := .xcvBytes)⟩⟩
  case illegal =>
    refine exec_linkCommand_illegal (op := .xcvBytes) hb ho fun hlegal => ?_
    rw [operandsLegal_xcvBytes] at hlegal
    omega
  case issued => exact exec_linkCommand_issued (op := .xcvBytes) hb ho (operandsLegal_xcvBytes.2 ⟨hdin, hrx, htime⟩)

/-- Settles O36: the completion runs the receive procedure, writes `CYCLES` and then ends. -/
theorem xcvBytesTIssueAndCompletion : Obligations.XcvBytesTIssueAndCompletion := by
  refine ⟨rfl, fun s => ⟨exec_linkCommand_closed (op := .xcvBytesT), fun hb ho hbad => ?illegal,
    fun hb ho hdin hrx => ?issued, fun rsp rest hb hp he hs => ?completion⟩⟩
  case illegal =>
    refine exec_linkCommand_illegal (op := .xcvBytesT) hb ho fun hlegal => ?_
    rw [operandsLegal_xcvBytesT] at hlegal
    omega
  case issued => exact exec_linkCommand_issued (op := .xcvBytesT) hb ho (operandsLegal_xcvBytesT.2 ⟨hdin, hrx⟩)
  case completion => exact (step_of_pending (op := .xcvBytesT) hb hp he hs).trans (thenNext_thenNext _ _ _)

/-- Settles O37. -/
theorem xcvBitsIssueAndCompletion : Obligations.XcvBitsIssueAndCompletion := by
  refine ⟨rfl, fun s => ⟨exec_linkCommand_closed (op := .xcvBits), fun hb ho hbad => ?illegal,
    fun hb ho hdin hpd htx hrx hrr hbits => ?issued, fun rsp rest => step_of_pending (op := .xcvBits)⟩⟩
  case illegal => exact exec_linkCommand_illegal (op := .xcvBits) hb ho (not_operandsLegal_xcvBits hbad)
  case issued =>
    exact exec_linkCommand_issued (op := .xcvBits) hb ho (operandsLegal_xcvBits_of_eq hdin hpd htx hrx hrr hbits)

/-- Settles O38: issued under the checks of `XCV.BITS`, completed as `XCV.BYTES.T` is. -/
theorem xcvBitsTIssueAndCompletion : Obligations.XcvBitsTIssueAndCompletion := by
  refine ⟨rfl, fun s => ⟨exec_linkCommand_closed (op := .xcvBitsT), fun hb ho hbad => ?illegal,
    fun hb ho hdin hpd htx hrx hrr hbits => ?issued, fun rsp rest hb hp he hs => ?completion⟩⟩
  case illegal =>
    exact exec_linkCommand_illegal (op := .xcvBitsT) hb ho
      (operandsLegal_xcvBitsT.not.2 (not_operandsLegal_xcvBits hbad))
  case issued =>
    exact exec_linkCommand_issued (op := .xcvBitsT) hb ho
      (operandsLegal_xcvBitsT.2 (operandsLegal_xcvBits_of_eq hdin hpd htx hrx hrr hbits))
  case completion => exact (step_of_pending (op := .xcvBitsT) hb hp he hs).trans (thenNext_thenNext _ _ _)

/-- Settles O48. -/
theorem undeliverableResponses : Obligations.UndeliverableResponses := by
  intro s rsp rest h
  rw [step_of_response h]
  exact ⟨fun hb => complete_of_idle (s := { s with events := rest }) hb rsp,
    fun op hb hp hs => complete_of_illShaped (s := { s with events := rest }) hb hp hs⟩

end Sys2Proof.Machine
end

section
/-! The target-mode commands (spec/45_transceive_target.md): their operands, and the completion of the two commands that
only send. The issue step and the completion step are those of every link command. -/

namespace Sys2Proof.Machine

/-! ### The operands of the target's commands -/

section Operands

variable {s : State}

theorem operandsLegal_tgtInit :
    LinkOp.tgtInit.OperandsLegal s ↔ s.rxcap.toNat ≤ 512 ∧ -1 ≤ s.timeout.toInt := by
  simp [LinkOp.OperandsLegal, LinkOp.operandChecks]

/-- `TGT.RECVB` checks what `TGT.INIT` checks (R191, R193). -/
theorem operandsLegal_tgtRecvb : LinkOp.tgtRecvb.OperandsLegal s ↔ LinkOp.tgtInit.OperandsLegal s := Iff.rfl

theorem not_operandsLegal_tgtInit (h : 512 < s.rxcap.toNat ∨ s.timeout.toInt < -1) :
    ¬ LinkOp.tgtInit.OperandsLegal s := by
  rw [operandsLegal_tgtInit]
  omega

theorem operandsLegal_tgtSendb :
    LinkOp.tgtSendb.OperandsLegal s ↔ s.dinlen.toNat ≤ 512 ∧ -1 ≤ s.timeout.toInt := by
  simp [LinkOp.OperandsLegal, LinkOp.operandChecks]

/-- The operands of `TGT.SENDBITS` that R194 admits: `tx_pre` and its two bounds (R166, R167). -/
theorem operandsLegal_tgtSendbits :
    LinkOp.tgtSendbits.OperandsLegal s ↔ s.dinlen.toNat ≤ 512 ∧ s.pinlen.toNat ≤ 512 ∧
      s.pinlen = s.dinlen ∧ s.txbits.toNat ≤ s.dinlen.toNat * 8 := by
  simp [LinkOp.OperandsLegal, LinkOp.operandChecks]

theorem not_operandsLegal_tgtSendbits
    (h : 512 < s.dinlen.toNat ∨ 512 < s.pinlen.toNat ∨ s.pinlen ≠ s.dinlen ∨
      s.dinlen.toNat * 8 < s.txbits.toNat) : ¬ LinkOp.tgtSendbits.OperandsLegal s := by
  rw [operandsLegal_tgtSendbits]
  rintro ⟨hdin, hpin, hpd, htx⟩
  exact h.elim hdin.not_gt (·.elim hpin.not_gt (·.elim (· hpd) htx.not_gt))

/-- The operands of `TGT.RECVBITS` that R195 admits: `rx_pre` and its two bounds (R166, R168). -/
theorem operandsLegal_tgtRecvbits :
    LinkOp.tgtRecvbits.OperandsLegal s ↔ s.rxcap.toNat ≤ 512 ∧ s.rxpcap.toNat ≤ 512 ∧
      s.rxpcap = s.rxcap ∧ s.rxcapbits.toNat ≤ s.rxcap.toNat * 8 := by
  simp [LinkOp.OperandsLegal, LinkOp.operandChecks]

theorem not_operandsLegal_tgtRecvbits
    (h : 512 < s.rxcap.toNat ∨ 512 < s.rxpcap.toNat ∨ s.rxpcap ≠ s.rxcap ∨
      s.rxcap.toNat * 8 < s.rxcapbits.toNat) : ¬ LinkOp.tgtRecvbits.OperandsLegal s := by
  rw [operandsLegal_tgtRecvbits]
  rintro ⟨hrx, hrxp, hrr, hbits⟩
  exact h.elim hrx.not_gt (·.elim hrxp.not_gt (·.elim (· hrr) hbits.not_gt))

end Operands

/-! ### The completion of a command that only sends (R192, R194) -/

section SendOnly

variable {s : State} {rsp : LinkRsp} {rest : List Event} {op : LinkOp}

theorem completionRule_of_sendOnly (hop : op.shape = .sendOnly) (rsp : LinkRsp) (s : State) :
    completionRule op rsp s = .next (s.finish rsp.code.kind) := by
  cases op
  case tgtSendb => rfl
  case tgtSendbits => rfl
  all_goals exact absurd hop (by decide)

/-- The answer to a pending send writes the link's code to `ERR` and clears `BUSY` and `ABTP`. -/
theorem step_of_pending_sendOnly (hop : op.shape = .sendOnly) (hb : s.busy = true) (hp : s.pend = op.opcode)
    (h : s.events = .link rsp :: rest) (hs : rsp.hasShape .sendOnly = true) :
    ∃ t, step s = .next t ∧ t = { s with status := t.status, events := rest, err := rsp.code.kind.code } ∧
      t.busy = false ∧ t.abtp = false ∧ t.isOpen = s.isOpen ∧ t.hbvalid = s.hbvalid := by
  have hstep : step s = .next (State.finish rsp.code.kind { s with events := rest }).endPending := by
    rw [step_of_pending hb hp h (hop ▸ hs), completionRule_of_sendOnly hop]
    rfl
  exact ⟨_, hstep, rfl, State.endPending_busy _, State.endPending_abtp _, State.endPending_isOpen _,
    State.endPending_hbvalid _⟩

end SendOnly

/-! ### The obligations -/

/-- Settles O39. -/
theorem tgtInitIssueAndCompletion : Obligations.TgtInitIssueAndCompletion := by
  refine ⟨rfl, fun s => ⟨exec_linkCommand_closed (op := .tgtInit), fun hb ho hbad => ?illegal,
    fun hb ho hrx htime => ?issued, fun rsp rest => step_of_pending (op := .tgtInit)⟩⟩
  case illegal => exact exec_linkCommand_illegal (op := .tgtInit) hb ho (not_operandsLegal_tgtInit hbad)
  case issued => exact exec_linkCommand_issued (op := .tgtInit) hb ho (operandsLegal_tgtInit.2 ⟨hrx, htime⟩)

/-- Settles O40. -/
theorem tgtSendbIssueAndCompletion : Obligations.TgtSendbIssueAndCompletion := by
  refine ⟨rfl, fun s => ⟨exec_linkCommand_closed (op := .tgtSendb), fun hb ho hbad => ?illegal,
    fun hb ho hdin htime => ?issued, fun rsp rest => step_of_pending_sendOnly (op := .tgtSendb) rfl⟩⟩
  case illegal =>
    refine exec_linkCommand_illegal (op := .tgtSendb) hb ho fun hlegal => ?_
    rw [operandsLegal_tgtSendb] at hlegal
    omega
  case issued => exact exec_linkCommand_issued (op := .tgtSendb) hb ho (operandsLegal_tgtSendb.2 ⟨hdin, htime⟩)

/-- Settles O41: issued under the checks of `TGT.INIT`. -/
theorem tgtRecvbIssueAndCompletion : Obligations.TgtRecvbIssueAndCompletion := by
  refine ⟨rfl, fun s => ⟨exec_linkCommand_closed (op := .tgtRecvb), fun hb ho hbad => ?illegal,
    fun hb ho hrx htime => ?issued, fun rsp rest => step_of_pending (op := .tgtRecvb)⟩⟩
  case illegal =>
    exact exec_linkCommand_illegal (op := .tgtRecvb) hb ho
      (operandsLegal_tgtRecvb.not.2 (not_operandsLegal_tgtInit hbad))
  case issued =>
    exact exec_linkCommand_issued (op := .tgtRecvb) hb ho
      (operandsLegal_tgtRecvb.2 (operandsLegal_tgtInit.2 ⟨hrx, htime⟩))

/-- Settles O42: equal lengths carry the bound of `DINLEN` to `PINLEN`. -/
theorem tgtSendbitsIssueAndCompletion : Obligations.TgtSendbitsIssueAndCompletion := by
  refine ⟨rfl, fun s => ⟨exec_linkCommand_closed (op := .tgtSendbits), fun hb ho hbad => ?illegal,
    fun hb ho hdin hpd htx => ?issued, fun rsp rest => step_of_pending_sendOnly (op := .tgtSendbits) rfl⟩⟩
  case illegal => exact exec_linkCommand_illegal (op := .tgtSendbits) hb ho (not_operandsLegal_tgtSendbits hbad)
  case issued =>
    exact exec_linkCommand_issued (op := .tgtSendbits) hb ho
      (operandsLegal_tgtSendbits.2 ⟨hdin, hpd ▸ hdin, hpd, htx⟩)

/-- Settles O43: equal capacities carry the bound of `RXCAP` to `RXPCAP`. -/
theorem tgtRecvbitsIssueAndCompletion : Obligations.TgtRecvbitsIssueAndCompletion := by
  refine ⟨rfl, fun s => ⟨exec_linkCommand_closed (op := .tgtRecvbits), fun hb ho hbad => ?illegal,
    fun hb ho hrx hrr hbits => ?issued, fun rsp rest => step_of_pending (op := .tgtRecvbits)⟩⟩
  case illegal => exact exec_linkCommand_illegal (op := .tgtRecvbits) hb ho (not_operandsLegal_tgtRecvbits hbad)
  case issued =>
    exact exec_linkCommand_issued (op := .tgtRecvbits) hb ho
      (operandsLegal_tgtRecvbits.2 ⟨hrx, hrr ▸ hrx, hrr, hbits⟩)

end Sys2Proof.Machine
end

section
/-! The device session and the abort (spec/46_link_session_abort.md): what `LNK.OPEN`, `LNK.CLOSE` and `ABORT` do, who
changes `OPEN`, who reads it, and that a completion does not see the abort before it. -/

namespace Sys2Proof.Machine

/-! ### The session commands and the abort, case by case -/

section Commands

variable {s : State}

/-- `LNK.OPEN` with a session open already (R211). -/
theorem exec_lnkOpen_already (hb : s.busy = false) (ho : s.isOpen = true) :
    exec .lnkOpen s = raise .invalidArgument s :=
  (whenIdle_of_idle hb).trans (if_pos ho)

/-- `LNK.OPEN` of a closed device asks the link and ends with its answer (R211). -/
theorem exec_lnkOpen_closed (hb : s.busy = false) (ho : s.isOpen = false) :
    exec .lnkOpen s = .next (State.finish s.openCode.kind
      (if s.openCode = .success then (s.request reqLnkOpen).setOpen true else s.request reqLnkOpen)) :=
  (whenIdle_of_idle hb).trans (if_neg (Bool.eq_false_iff.1 ho))

theorem exec_lnkOpen_accepted (hb : s.busy = false) (ho : s.isOpen = false) (hc : s.openCode = .success) :
    exec .lnkOpen s = .next (State.finish .success ((s.request reqLnkOpen).setOpen true)) := by
  rw [exec_lnkOpen_closed hb ho, if_pos hc, hc]
  rfl

theorem exec_lnkOpen_refused (hb : s.busy = false) (ho : s.isOpen = false) (hc : s.openCode ≠ .success) :
    exec .lnkOpen s = .next (State.finish s.openCode.kind (s.request reqLnkOpen)) := by
  rw [exec_lnkOpen_closed hb ho, if_neg hc]

/-- `LNK.CLOSE` with no session open: the link hears nothing (R212). -/
theorem exec_lnkClose_closed (hb : s.busy = false) (ho : s.isOpen = false) :
    exec .lnkClose s = .next (s.finish .success) := by
  have hno : ¬ s.isOpen = true := Bool.eq_false_iff.1 ho
  exact (whenIdle_of_idle hb).trans (congrArg (fun u => Host.Outcome.next (State.finish .success u)) (if_neg hno))

/-- `LNK.CLOSE` of an open session (R212). -/
theorem exec_lnkClose_open (hb : s.busy = false) (ho : s.isOpen = true) :
    exec .lnkClose s = .next (State.finish .success ((s.request reqLnkClose).setOpen false)) :=
  (whenIdle_of_idle hb).trans (congrArg (fun u => Host.Outcome.next (State.finish .success u)) (if_pos ho))

/-- `ABORT` while a command is pending (R214). -/
theorem exec_abort_pending (hb : s.busy = true) : exec .abort s = .next ((s.setAbtp true).request reqAbort) :=
  congrArg Host.Outcome.next (if_pos hb)

/-- `ABORT` with nothing pending (R214). -/
theorem exec_abort_idle (hb : s.busy = false) : exec .abort s = .next s :=
  congrArg Host.Outcome.next (if_neg (Bool.eq_false_iff.1 hb))

end Commands

/-! ### Writes of `STATUS` bits -/

/-- The last write of a bit counts. -/
theorem putBit_putBit_same (st : BitVec 4) (k : Nat) (a b : Bool) : putBit (putBit st k a) k b = putBit st k b := by
  apply BitVec.eq_of_getLsbD_eq
  intro i hi
  simp only [putBit_getLsbD _ _ _ _ hi]
  split <;> rfl

/-- Writes of different bits commute. -/
theorem putBit_putBit_comm (st : BitVec 4) {j k : Nat} (h : j ≠ k) (a b : Bool) :
    putBit (putBit st j a) k b = putBit (putBit st k b) j a := by
  apply BitVec.eq_of_getLsbD_eq
  intro i hi
  simp only [putBit_getLsbD _ _ _ _ hi]
  by_cases hk : i = k
  · have hj : i ≠ j := hk ▸ h.symm
    rw [if_pos hk, if_neg hj, if_pos hk]
  · rw [if_neg hk, if_neg hk]

/-! ### The completion after an abort (R215)

The abort writes `ABTP` and tells the link. No completion rule reads or writes either, and the end of the completion
clears `ABTP`. -/

/-- The state with `ABTP` set and another list of requests: all that an abort can change. -/
def State.aborted (l : List LinkReq) (s : State) : State := { s.setAbtp true with toLink := l }

theorem setAbtp_request_eq_aborted (s : State) :
    (s.setAbtp true).request reqAbort = s.aborted (s.toLink ++ [{ op := .abort }]) := rfl

theorem State.aborted_busy (l : List LinkReq) (s : State) : (s.aborted l).busy = s.busy := s.setAbtp_busy true

/-- The end of a completion leaves no trace of `ABTP`. -/
theorem State.endPending_aborted (l : List LinkReq) (s : State) :
    (s.aborted l).endPending = { s.endPending with toLink := l } := by
  have hstatus : putBit (putBit (putBit s.status 3 true) 0 false) 3 false =
      putBit (putBit s.status 0 false) 3 false := by
    rw [putBit_putBit_comm s.status (j := 3) (k := 0) (by decide), putBit_putBit_same]
  exact congrArg (fun st => { s.endPending with status := st, toLink := l }) hstatus

section Completion

variable (l : List LinkReq) (rsp : LinkRsp) (s : State)

theorem deliverBytes_aborted (v : List Byte) (k : ErrKind) :
    deliverBytes v k (s.aborted l) = thenNext (deliverBytes v k s) (State.aborted l) := by
  unfold deliverBytes
  split <;> rfl

theorem deliverBits_aborted (v p : List Byte) (m n : Nat) (k : ErrKind) :
    deliverBits v p m n k (s.aborted l) = thenNext (deliverBits v p m n k s) (State.aborted l) := by
  unfold deliverBits
  split <;> rfl

theorem recvBytes_aborted : recvBytes rsp (s.aborted l) = thenNext (recvBytes rsp s) (State.aborted l) := by
  by_cases hc : rsp.code = .success
  · obtain hfits | hlong := le_or_gt rsp.data.length s.rxcap.toNat
    · rw [recvBytes_of_fits hc hfits, ← deliverBytes_aborted]
      exact recvBytes_of_fits hc hfits
    · rw [recvBytes_of_overflow hc hlong, ← deliverBytes_aborted]
      exact recvBytes_of_overflow hc hlong
  · rw [recvBytes_of_failure hc, recvBytes_of_failure hc]
    rfl

theorem recvBits_aborted : recvBits rsp (s.aborted l) = thenNext (recvBits rsp s) (State.aborted l) := by
  by_cases hc : rsp.code = .success
  · obtain hfits | hlong := le_or_gt rsp.nbits s.rxcapbits.toNat
    · rw [recvBits_of_fits hc hfits, ← deliverBits_aborted]
      exact recvBits_of_fits hc hfits
    · rw [recvBits_of_overflow hc hlong, ← deliverBits_aborted]
      exact recvBits_of_overflow hc hlong
  · rw [recvBits_of_failure hc, recvBits_of_failure hc]
    rfl

/-- The write of `CYCLES` at the end of a timed command commutes with an abort. -/
theorem withCycles_aborted (o : Outcome) :
    withCycles rsp (thenNext o (State.aborted l)) = thenNext (withCycles rsp o) (State.aborted l) := by
  rw [withCycles, withCycles, thenNext_thenNext, thenNext_thenNext]
  refine congrArg (thenNext o) (funext fun t => ?_)
  split <;> rfl

theorem completionRule_aborted (op : LinkOp) :
    completionRule op rsp (s.aborted l) = thenNext (completionRule op rsp s) (State.aborted l) := by
  cases op with
  | xcvBytes => exact recvBytes_aborted l rsp s
  | xcvBytesT => exact (congrArg (withCycles rsp) (recvBytes_aborted l rsp s)).trans (withCycles_aborted l rsp _)
  | xcvBits => exact recvBits_aborted l rsp s
  | xcvBitsT => exact (congrArg (withCycles rsp) (recvBits_aborted l rsp s)).trans (withCycles_aborted l rsp _)
  | tgtInit => exact recvBytes_aborted l rsp s
  | tgtSendb => rfl
  | tgtRecvb => exact recvBytes_aborted l rsp s
  | tgtSendbits => rfl
  | tgtRecvbits => exact recvBits_aborted l rsp s

/-- A pending command that is none of the nine has no completion rule (log 11). -/
theorem complete_of_noLinkOp {rsp : LinkRsp} {s : State} (hb : s.busy = true) (h : LinkOp.ofOpcode s.pend = none) :
    complete rsp s = .fault .noCompletionRule := by
  rw [complete, if_pos hb, h]

theorem complete_aborted (hb : s.busy = true) :
    complete rsp (s.aborted l) = thenNext (complete rsp s) (fun u => { u with toLink := l }) := by
  have hb' : (s.aborted l).busy = true := (s.aborted_busy l).trans hb
  cases hop : LinkOp.ofOpcode s.pend with
  | none =>
    rw [complete_of_noLinkOp hb hop, complete_of_noLinkOp hb' hop]
    rfl
  | some op =>
    have hp : s.pend = op.opcode := (LinkOp.opcode_of_ofOpcode hop).symm
    cases hs : rsp.hasShape op.shape with
    | false =>
      rw [complete_of_illShaped hb hp hs, complete_of_illShaped hb' hp hs]
      rfl
    | true =>
      rw [complete_of_pending hb hp hs, complete_of_pending hb' hp hs, completionRule_aborted, thenNext_thenNext,
        thenNext_thenNext]
      simp only [State.endPending_aborted]

end Completion

/-! ### The compute commands do not see `OPEN` (R213) -/

section Compute

variable {s : State} {b : Bool}

/-- What a command does when idle decides whether it sees `OPEN`; the guard does not look at it. -/
theorem whenIdle_setOpen {o o' : Outcome} (h : o' = thenNext o (State.setOpen b)) :
    whenIdle (s.setOpen b) o' = thenNext (whenIdle s o) (State.setOpen b) := by
  cases hb : s.busy with
  | false => rw [whenIdle_of_idle hb, whenIdle_of_idle ((s.setOpen_busy b).trans hb), h]
  | true =>
    rw [whenIdle_of_busy hb, whenIdle_of_busy ((s.setOpen_busy b).trans hb)]
    rfl

/-- A command with one local check that does not read `OPEN`, and with a result that carries `OPEN` along. -/
theorem checked_setOpen {c : Prop} [Decidable c] {e : ErrKind} {t t' : State} (h : t' = t.setOpen b) :
    (if c then raise e (s.setOpen b) else .next t') =
      thenNext (if c then raise e s else .next t) (State.setOpen b) := by
  split
  · rfl
  · exact congrArg Host.Outcome.next h

theorem State.finish_setOpen (s : State) (k : ErrKind) (b : Bool) :
    (s.setOpen b).finish k = (s.finish k).setOpen b := rfl

theorem State.setHbvalid_setOpen (s : State) (a b : Bool) :
    (s.setOpen b).setHbvalid a = (s.setHbvalid a).setOpen b :=
  congrArg (fun st => { s with status := st }) (putBit_putBit_comm s.status (by decide) b a)

/-- A command that takes no device does the same whatever `OPEN` is, and keeps it. -/
theorem exec_setOpen_of_isCompute {i : Instr} (hi : isCompute i = true) (s : State) (b : Bool) :
    exec i (s.setOpen b) = thenNext (exec i s) (State.setOpen b) := by
  cases i with
  | crcaInit => exact whenIdle_setOpen rfl
  | crcaUpd imm8 => exact whenIdle_setOpen rfl
  | crcaCalc => exact whenIdle_setOpen (checked_setOpen rfl)
  | crcaAppend => exact whenIdle_setOpen (checked_setOpen rfl)
  | crcbInit => exact whenIdle_setOpen rfl
  | crcbUpd imm8 => exact whenIdle_setOpen rfl
  | crcbCalc => exact whenIdle_setOpen (checked_setOpen rfl)
  | crcbAppend => exact whenIdle_setOpen (checked_setOpen rfl)
  | cascEnc => exact whenIdle_setOpen (checked_setOpen rfl)
  | atsLochb =>
    refine whenIdle_setOpen (checked_setOpen ?_)
    rw [← State.finish_setOpen, ← State.setHbvalid_setOpen]
    rfl
  | _ => cases hi

end Compute

/-! ### Who changes `OPEN` (R210) -/

section Open

variable {s t : State}

theorem Effect.isOpen_eq {i : Instr} (h : Effect i s t) (hopen : i ≠ .lnkOpen) (hclose : i ≠ .lnkClose) :
    t.isOpen = s.isOpen := by
  cases h with
  | opened => exact absurd rfl hopen
  | closed => exact absurd rfl hclose
  | located => exact State.setHbvalid_isOpen _ _
  | issued op => exact s.goBusy_isOpen op.opcode
  | aborted => exact s.setAbtp_isOpen true
  | _ => rfl

theorem Received.isOpen_eq {rsp : LinkRsp} {k : RspShape} (h : Received rsp k s t) : t.isOpen = s.isOpen := by
  cases h <;> rfl

theorem complete_isOpen {rsp : LinkRsp} (h : complete rsp s = .next t) : t.isOpen = s.isOpen := by
  obtain ⟨-, rfl⟩ | ⟨op, u, -, -, -, hr, rfl⟩ := complete_next h
  · rfl
  · exact (State.endPending_isOpen _).trans hr.isOpen_eq

theorem State.writeReg_isOpen (s : State) (v : Word) (reg : Reg) : (s.writeReg v reg).isOpen = s.isOpen := by
  cases reg <;> rfl

theorem writeAbort_isOpen {v : Word} (h : writeAbort v s = .next t) : t.isOpen = s.isOpen := by
  rw [writeAbort_eq] at h
  split at h
  · exact (exec_effect h).isOpen_eq nofun nofun
  · cases h; rfl

/-- A register write that changes `OPEN` issues one of the two session commands. -/
theorem regWrite_changes_isOpen {r : BitVec 7} {v : Word} (h : regWrite r v s = .next t) (hne : t.isOpen ≠ s.isOpen) :
    r = 0 ∧ (v = 0x60 ∨ v = 0x61) := by
  obtain ⟨rfl, i, hi, he⟩ | ⟨-, -, -, rfl⟩ | ⟨-, -, he⟩ | ⟨-, -, rfl⟩ | ⟨-, -, -, reg, rfl⟩ := regWrite_next h
  · obtain ⟨hword, -⟩ := encode_of_decodeCmd hi
    refine ⟨rfl, ?_⟩
    by_cases hopen : i = .lnkOpen
    · subst hopen; exact .inl hword.symm
    by_cases hclose : i = .lnkClose
    · subst hclose; exact .inr hword.symm
    exact absurd ((exec_effect he).isOpen_eq hopen hclose) hne
  · exact absurd rfl hne
  · exact absurd ((exec_effect he).isOpen_eq nofun nofun) hne
  · exact absurd rfl hne
  · exact absurd (s.writeReg_isOpen v reg) hne

theorem hostTransaction_changes_isOpen {x : HostTxn} (h : hostTransaction x s = .next t)
    (hne : t.isOpen ≠ s.isOpen) : x = .regWrite 0 0x60 ∨ x = .regWrite 0 0x61 := by
  cases x with
  | regRead r => cases h; exact absurd rfl hne
  | regWrite r v => obtain ⟨rfl, rfl | rfl⟩ := regWrite_changes_isOpen h hne <;> simp
  | bufRead b i => cases h; exact absurd rfl hne
  | bufWrite b i v =>
    obtain ⟨-, h⟩ := whenIdle_eq_next.1 h
    cases h
    exact absurd (by split <;> rfl) hne

/-- A move that changes `OPEN` is a reset or issues one of the two session commands. -/
theorem move_changes_isOpen {e : Event} (h : move e s = .next t) (hne : t.isOpen ≠ s.isOpen) :
    e = .reset ∨ ∃ c, e = .host (.regWrite 0 0x60) c ∨ e = .host (.regWrite 0 0x61) c := by
  cases e with
  | host x c => obtain rfl | rfl := hostTransaction_changes_isOpen h hne <;> simp
  | abortWrite v => exact absurd (writeAbort_isOpen h) hne
  | link rsp => exact absurd (complete_isOpen h) hne
  | reset => exact .inl rfl

end Open

/-! ### The obligations -/

/-- Settles O52: the abort brings about `State.aborted`, with which the completion commutes. -/
theorem abortDoesNotChangeCompletion : Obligations.AbortDoesNotChangeCompletion :=
  fun s rsp hb => ⟨_, exec_abort_pending hb, complete_aborted _ rsp s hb⟩

/-- Settles O53: `LNK.OPEN` ends with `InvalidArgument` or the link's code, of which `DeviceClosed` is none. -/
theorem deviceClosedExactlyForLinkCommands : Obligations.DeviceClosedExactlyForLinkCommands := by
  refine ⟨fun op s => exec_linkCommand_closed, fun i s b hi => exec_setOpen_of_isCompute hi s b,
    fun s hb => ⟨?opening, ?closing⟩, fun op => exec_linkCommand_closed rfl rfl⟩
  case opening =>
    cases ho : s.isOpen with
    | true => exact ⟨_, exec_lnkOpen_already hb ho, (by decide : ErrKind.invalidArgument.code ≠ 14)⟩
    | false => exact ⟨_, exec_lnkOpen_closed hb ho, s.openCode.kind_code_ne.2⟩
  case closing =>
    cases ho : s.isOpen with
    | true => exact ⟨_, exec_lnkClose_open hb ho, rfl⟩
    | false => exact ⟨_, exec_lnkClose_closed hb ho, rfl⟩

/-- Settles O54. -/
theorem openChangesOnlyBySession : Obligations.OpenChangesOnlyBySession := by
  refine ⟨fun i s t hopen hclose h => (exec_effect h).isOpen_eq hopen hclose, fun s t e rest he h hne => ?_⟩
  rw [step_of_events he] at h
  exact move_changes_isOpen h hne

/-- Settles O49. -/
theorem lnkOpenResult : Obligations.LnkOpenResult := by
  refine ⟨rfl, fun s hb => ⟨exec_lnkOpen_already hb, fun ho hc => ?accepted, exec_lnkOpen_refused hb⟩⟩
  exact ⟨_, exec_lnkOpen_accepted hb ho hc, State.setOpen_isOpen _ _, State.setOpen_busy _ _,
    State.setOpen_hbvalid _ _, State.setOpen_abtp _ _, rfl⟩

/-- Settles O50: after a close the session is closed and `ERR` is 0 already. -/
theorem lnkCloseResult : Obligations.LnkCloseResult := by
  refine ⟨rfl, fun s hb => ⟨exec_lnkClose_closed hb, fun ho => ?_⟩⟩
  have hbusy : ((s.request reqLnkClose).setOpen false).busy = s.busy := State.setOpen_busy _ _
  have hclosed : ((s.request reqLnkClose).setOpen false).isOpen = false := State.setOpen_isOpen _ _
  exact ⟨_, exec_lnkClose_open hb ho, hclosed, hbusy, State.setOpen_hbvalid _ _, State.setOpen_abtp _ _, rfl,
    exec_lnkClose_closed (hbusy.trans hb) hclosed⟩

/-- Settles O51: both writers' moves end in the same write to `ABORT`. -/
theorem abortForwardsWhilePending : Obligations.AbortForwardsWhilePending := by
  refine ⟨fun s hb => ?pending, fun s => exec_abort_idle, fun s v rest he => ?requester,
    fun s v c rest => step_of_hostAbort⟩
  case pending =>
    exact ⟨_, exec_abort_pending hb, State.setAbtp_abtp _ _, (State.setAbtp_busy _ _).trans hb,
      State.setAbtp_isOpen _ _, State.setAbtp_hbvalid _ _, rfl⟩
  case requester => exact (step_of_events he).trans (writeAbort_eq v _)

end Sys2Proof.Machine
end

section
/-! The exceptions (spec/60_exceptions.md): a failure the link reports ends the pending command with the link's code and
zeroed result lengths (R237), and nothing stops the block (R243). -/

namespace Sys2Proof.Machine

/-! ### A failure the link reports (R237) -/

/-- What a failure the link reports does to the state before `BUSY` and `ABTP` are cleared: the link's code in `ERR`,
and 0 in the result lengths that a command receiving this shape writes on success. -/
def State.linkFailed (k : RspShape) (c : LinkCode) (s : State) : State :=
  { s with
    err := c.kind.code
    doutlen := if k = .sendOnly then s.doutlen else 0
    poutlen := if k = .bits then 0 else s.poutlen
    rxbits := if k = .bits then 0 else s.rxbits }

section LinkFailure

variable {rsp : LinkRsp}

/-- A timed command writes `CYCLES` back on `Success` only (R173). -/
theorem withCycles_of_failure (h : rsp.code ≠ .success) (o : Outcome) : withCycles rsp o = o := by
  cases o with
  | next t => exact congrArg Host.Outcome.next (if_neg h)
  | fault r => rfl
  | refused r => rfl

/-- Each of the nine completion rules passes a failure through, and no capacity matters to it. -/
theorem completionRule_of_failure (h : rsp.code ≠ .success) (op : LinkOp) (s : State) :
    completionRule op rsp s = .next (s.linkFailed op.shape rsp.code) := by
  cases op with
  | xcvBytes => exact recvBytes_of_failure h
  | xcvBytesT => exact (withCycles_of_failure h _).trans (recvBytes_of_failure h)
  | xcvBits => exact recvBits_of_failure h
  | xcvBitsT => exact (withCycles_of_failure h _).trans (recvBits_of_failure h)
  | tgtInit => exact recvBytes_of_failure h
  | tgtSendb => rfl
  | tgtRecvb => exact recvBytes_of_failure h
  | tgtSendbits => rfl
  | tgtRecvbits => exact recvBits_of_failure h

theorem complete_of_failure {s : State} {op : LinkOp} (hb : s.busy = true) (hp : s.pend = op.opcode)
    (hs : rsp.hasShape op.shape = true) (h : rsp.code ≠ .success) :
    complete rsp s = .next (s.linkFailed op.shape rsp.code).endPending := by
  rw [complete_of_pending hb hp hs, completionRule_of_failure h, thenNext_next]

end LinkFailure

/-! ### No step faults (R243)

Only a completion has a fault to answer: every other move ends in an operation, a guarded write or a read. -/

section Fault

variable (s : State) (f : Fault)

/-- The guard answers with a refusal or with the write it guards. -/
theorem whenIdle_next_ne_fault (t : State) : whenIdle s (.next t) ≠ .fault f := by
  cases hb : s.busy with
  | false => rw [whenIdle_of_idle hb]; nofun
  | true => rw [whenIdle_of_busy hb]; nofun

theorem writeCmd_ne_fault (w : Word) : writeCmd w s ≠ .fault f := by
  unfold writeCmd
  split
  · exact exec_ne_fault _ s f
  · exact whenIdle_next_ne_fault s f _

theorem writeAbort_ne_fault (v : Word) : writeAbort v s ≠ .fault f := by
  rw [writeAbort_eq]
  split
  · exact exec_ne_fault .abort s f
  · nofun

theorem regWrite_ne_fault (r : BitVec 7) (v : Word) : regWrite r v s ≠ .fault f := by
  unfold regWrite
  split
  · exact whenIdle_next_ne_fault s f _
  · exact writeCmd_ne_fault s f v
  · exact writeAbort_ne_fault s f v
  · exact whenIdle_next_ne_fault s f _

theorem hostTransaction_ne_fault (x : HostTxn) : hostTransaction x s ≠ .fault f := by
  cases x with
  | regRead r => nofun
  | regWrite r v => exact regWrite_ne_fault s f r v
  | bufRead b i => nofun
  | bufWrite b i v => exact whenIdle_next_ne_fault s f _

end Fault

section Invariant

variable {s : State}

/-- What the invariant says of a pending command shuts out both faults: it is one of the nine, and its capacities keep
every delivery inside the buffers (R170). -/
theorem State.Inv.complete_ne_fault (hi : s.Inv) (rsp : LinkRsp) (f : Fault) : complete rsp s ≠ .fault f := by
  cases hb : s.busy with
  | false => rw [complete_of_idle hb]; nofun
  | true =>
    obtain ⟨op, hop, hcap⟩ := hi.pending hb
    have hp : s.pend = op.opcode := (LinkOp.opcode_of_ofOpcode hop).symm
    cases hs : rsp.hasShape op.shape with
    | false => rw [complete_of_illShaped hb hp hs]; nofun
    | true =>
      obtain ⟨t, ht⟩ := completionRule_completes op rsp hcap
      rw [complete_of_pending hb hp hs, ht]; nofun

theorem State.Inv.move_ne_fault (hi : s.Inv) (e : Event) (f : Fault) : move e s ≠ .fault f := by
  cases e with
  | host x c => exact hostTransaction_ne_fault _ f x
  | abortWrite v => exact writeAbort_ne_fault s f v
  | link rsp => exact hi.complete_ne_fault rsp f
  | reset => nofun

end Invariant

/-! ### The obligations -/

/-- Settles O18: a step is a move, and the invariant does not speak of the list it was taken from. -/
theorem noFaultUnderInvariant : Obligations.NoFaultUnderInvariant := by
  intro s hi f
  cases he : s.events with
  | nil => rw [step_of_no_events he]; nofun
  | cons e rest =>
    rw [step_of_events he]
    have hrest : State.Inv { s with events := rest } := { hi with }
    exact hrest.move_ne_fault e f

/-- Settles O46: the nine completions by `complete_of_failure`, the open request by its answer. -/
theorem linkFailurePassedThrough : Obligations.LinkFailurePassedThrough := by
  refine ⟨fun s rsp op hb hp hs hc => ?completion, fun s => exec_lnkOpen_refused⟩
  have herr : rsp.code.kind.code ≠ 0 := rsp.code.kind_code_ne.1 hc
  exact ⟨_, complete_of_failure hb hp hs hc, herr, State.endPending_busy _, State.endPending_abtp _,
    State.endPending_isOpen _, State.endPending_hbvalid _, rfl⟩

end Sys2Proof.Machine
end

section
/-! Reset and hazards (spec/70_reset_and_hazards.md R260 to R266): what a reset leaves behind, what is refused while a
command is pending, and which operations leave one pending. -/

namespace Sys2Proof.Machine

/-! ### Reset (R260, R261) -/

theorem step_of_reset {s : State} {rest : List Event} (h : s.events = .reset :: rest) :
    step s = .next (resetBlock { s with events := rest }) :=
  step_of_events h

theorem resetBlock_busy (s : State) : (resetBlock s).busy = false := BitVec.getLsbD_zero

/-- A response with nothing pending is dropped: only its move is gone (R261, U17). -/
theorem step_of_idle_response {s : State} {rsp : LinkRsp} {rest : List Event} (hb : s.busy = false)
    (h : s.events = .link rsp :: rest) : step s = .next { s with events := rest } :=
  (step_of_response h).trans (complete_of_idle (s := { s with events := rest }) hb rsp)

/-! ### Writes while a command is pending (R266) -/

section Refused

variable {s : State}

/-- No word written to `CMD` gets through, legal or not: none of them is `ABORT`'s (R83). -/
theorem writeCmd_of_busy (hb : s.busy = true) (w : Word) : writeCmd w s = .refused .writeWhileBusy := by
  unfold writeCmd
  split
  · rename_i i hd
    exact exec_of_busy hb (decodeCmd_ne_abort hd)
  · exact whenIdle_of_busy hb

theorem regWrite_of_busy {r : BitVec 7} (hb : s.busy = true) (hr : r ≠ 3) (v : Word) :
    regWrite r v s = .refused .writeWhileBusy := by
  unfold regWrite
  split
  · exact whenIdle_of_busy hb
  · exact writeCmd_of_busy hb v
  · exact absurd (Reg.eq_of_ofIndex_abort r ‹_›) hr
  · exact whenIdle_of_busy hb

end Refused

/-! ### Going busy (R164, R263) -/

/-- An operation keeps `BUSY`, or it is a link command issued to an open device. -/
theorem Effect.busy_eq_or_issued {i : Instr} {s t : State} (h : Effect i s t) :
    t.busy = s.busy ∨ ∃ (op : LinkOp) (q : LinkReq),
      i = linkCommand op ∧ s.isOpen = true ∧ t = (s.goBusy op.opcode).request q := by
  cases h with
  | issued op _ q hb ho => exact .inr ⟨op, q, rfl, ho, rfl⟩
  | located => exact .inl (State.setHbvalid_busy _ _)
  | opened => exact .inl (State.setOpen_busy _ _)
  | closed => exact .inl (State.setOpen_busy _ _)
  | aborted => exact .inl (State.setAbtp_busy _ _)
  | _ => exact .inl rfl

/-! ### The obligations -/

/-- Settles O58: an issue step writes `STATUS`, `PEND` and the link's requests only. -/
theorem onlyLinkCommandsGoBusy : Obligations.OnlyLinkCommandsGoBusy := by
  intro i s t hidle h hbusy
  obtain hkept | ⟨op, q, rfl, hopen, rfl⟩ := (exec_effect h).busy_eq_or_issued
  · cases (hkept.trans hidle).symm.trans hbusy
  · exact ⟨op, rfl, hopen, rfl, rfl, rfl, rfl, rfl, rfl⟩

/-- Settles O11, a lemma per kind of write. -/
theorem writesWhileBusyAreRefused : Obligations.WritesWhileBusyAreRefused := by
  refine ⟨fun s r v c rest h hb hr => ?_, fun s b i v c rest h hb => ?_, fun s i => exec_of_busy⟩
  · exact (step_of_host h).trans (regWrite_of_busy (s := s.afterHostMove c rest) hb hr v)
  · exact (step_of_host h).trans (whenIdle_of_busy hb)

/-- Settles O14: the registers are those of `State.reset`, whatever the state was. -/
theorem resetAcceptedInEveryState : Obligations.ResetAcceptedInEveryState := by
  intro s rest h
  refine ⟨resetBlock { s with events := rest }, step_of_reset h, ?_⟩
  exact ⟨rfl, rfl, rfl, rfl, rfl, rfl, rfl, rfl, rfl, rfl, rfl, rfl, rfl, rfl, rfl, rfl, rfl, rfl⟩

/-- Settles O15: the reset clears `BUSY`, so the response that follows finds nothing pending. -/
theorem resetAbandonsPendingCommand : Obligations.ResetAbandonsPendingCommand := by
  intro s rsp rest h
  have hb := resetBlock_busy { s with events := .link rsp :: rest }
  exact ⟨_, step_of_reset h, hb, rfl, rfl, step_of_idle_response hb rfl⟩

end Sys2Proof.Machine
end
